-- ==== Sys2Proof/Word.lean ====
section
/-! DEFINITION. The plain bit types of the block: the command word, a byte, a context number (spec 30_encoding.md R60, R61). -/

namespace Sys2Proof

/-- The command word `CMD[31:0]` (R60). -/
abbrev Word := BitVec 32

/-- One byte of the buffer, and the width of `IMM` and `ERRVAL` (R12, R13, R71). -/
abbrev Byte := BitVec 8

/-- The `CTX` field of a command word, `CMD[7:4]` (R61). -/
abbrev Ctx := BitVec 4

end Sys2Proof
end

