-- ==== Sys2Proof/Config.lean ====
section
/-! DEFINITION. The implementation parameters the spec leaves open, `LEN_W` and `NUM_CTX`, and the widths derived from them
(spec 00_scope.md R8 to R11). A model takes them as an argument: they travel in State (log 1), so that a statement about every
state is about every choice of them. There is no free value: the spec leaves no command's result open. -/

namespace Sys2Proof

/-- The parameters of one implementation: `LEN_W` (R8) and `NUM_CTX` (R11). -/
structure Params where
  lenW : Nat
  numCtx : Nat
  deriving DecidableEq, Repr

/-- The parameters the spec allows: `LEN_W >= 1` (R8) and `1 <= NUM_CTX <= 16` (R11). -/
abbrev Params.Legal (p : Params) : Prop := 1 ≤ p.lenW ∧ 1 ≤ p.numCtx ∧ p.numCtx ≤ 16

/-- `CNT_W = LEN_W + 3`, the width of a sample count and of a cursor (R9). -/
def Params.cntW (p : Params) : Nat := p.lenW + 3

/-- `DATA_W = max(16, CNT_W)`, the width of the response `DATA` field (R10). -/
def Params.dataW (p : Params) : Nat := max 16 p.cntW

/-- DESIGN CHOICE (log 1): the parameters of `State.reset`, those of the spec's own test vectors
(95_test_vectors.md sections 2.3 and 2.4). -/
def Params.ofVectors : Params := { lenW := 8, numCtx := 2 }

end Sys2Proof
end

