-- ==== Sys2Proof/Syntax.lean ====
section
/-! DEFINITION. The five commands (spec 30_encoding.md R64) and what the host presents on the command port (R60, R62). -/

namespace Sys2Proof

/-- The commands of the opcode table, one constructor a row. CONFIG carries its side operands `LEN` and the buffer (R62). -/
inductive Instr where
  /-- RESOLVE: look up the channel count of color type `ct` (R82). -/
  | resolve (ct : Byte)
  /-- CONFIG: construct a sequencer at depth `dv` over the `len` bytes `bytes` (R92). -/
  | config (dv : Byte) (len : Nat) (bytes : List Byte)
  /-- LENGTH: the sample count of the configuration (R96). -/
  | length
  /-- START: begin or restart the traversal of context `c` (R97). -/
  | start (c : Ctx)
  /-- NEXT: the next sample of the traversal of context `c` (R100). -/
  | next (c : Ctx)
  deriving DecidableEq, Repr

/-- What the host presents with one command: the word, and the side-operand inputs `LEN` and buffer, which every command but
CONFIG ignores (R62). -/
structure Command where
  word : Word
  len : Nat
  bytes : List Byte
  deriving DecidableEq, Repr

end Sys2Proof
end

