-- ==== Sys2Proof/WellFormed.lean ====
section
/-! DEFINITION. Which commands the host may present: the operand widths a port can carry (spec 30_encoding.md R62, R63) and the
length duty of 70_reset_and_hazards.md R164. `IMM` and `CTX` are bounded by their types. -/

namespace Sys2Proof

/-- A command the host may present under parameters `p`: CONFIG's `LEN` fits in `LEN_W` bits (R63) and is the number of bytes
presented (R164). Every other command is well formed as it stands. -/
def Instr.wf (p : Params) : Instr → Bool
  | .config _ len bytes => decide (len < 2 ^ p.lenW) && decide (bytes.length = len)
  | .resolve _ => true
  | .length => true
  | .start _ => true
  | .next _ => true

end Sys2Proof
end

