-- ==== Sys2Proof/Decode.lean ====
section
/-! DEFINITION. Decoding, total on every 32-bit word (spec 30_encoding.md R61 to R69), the encoder (R76), and the host-side rule
that an integer outside 0..255 cannot be presented on an 8-bit operand (40_color_type_lut.md R84, 41_sample_sequencer.md R91). -/

namespace Sys2Proof

/-- `OP = CMD[3:0]` (R61). -/
def opField (w : Word) : BitVec 4 := w.extractLsb' 0 4

/-- `CTX = CMD[7:4]` (R61). -/
def ctxField (w : Word) : Ctx := w.extractLsb' 4 4

/-- `IMM = CMD[15:8]`, never sign-extended (R61, R63). -/
def immField (w : Word) : Byte := w.extractLsb' 8 8

/-- `RSV = CMD[31:16]`, must be zero (R61). -/
def rsvField (w : Word) : BitVec 16 := w.extractLsb' 16 16

/-- The operation a row of R65 selects. -/
inductive Op where
  | resolve | config | length | start | next
  deriving DecidableEq, Repr

/-- One row of the match table of R65. -/
structure Row where
  pattern : Word
  mask : Word
  op : Op
  deriving DecidableEq, Repr

/-- The match table, row by row as R65 gives it. -/
def rows : List Row :=
  [ { pattern := 0x00000001, mask := 0xFFFF00FF, op := .resolve },
    { pattern := 0x00000002, mask := 0xFFFF00FF, op := .config },
    { pattern := 0x00000003, mask := 0xFFFFFFFF, op := .length },
    { pattern := 0x00000004, mask := 0xFFFFFF0F, op := .start },
    { pattern := 0x00000005, mask := 0xFFFFFF0F, op := .next } ]

/-- A word selects a row when `(w & MASK) = MATCH` (R65). -/
def Row.selects (r : Row) (w : Word) : Bool := (w &&& r.mask) == r.pattern

/-- Why a word is no command, by name. Both names raise ILLEGAL_COMMAND (R66, R67). -/
inductive DecodeError where
  /-- `OP` is 0x0 or one of 0x6 .. 0xF (R66). -/
  | reservedOp (op : BitVec 4)
  /-- a legal `OP` with a nonzero must-be-zero field (R67). -/
  | mustBeZero (op : BitVec 4)
  deriving DecidableEq, Repr

/-- `OP` is one of the assigned numbers 0x1 .. 0x5 (R64). -/
def opAssigned (op : BitVec 4) : Bool := decide (1 ≤ op.toNat) && decide (op.toNat ≤ 5)

/-- The name under which a word that matches no row is rejected. -/
def rejection (w : Word) : DecodeError :=
  if opAssigned (opField w) then .mustBeZero (opField w) else .reservedOp (opField w)

/-- The command that row `op` makes of a presented word, with its operands assembled (R63, R69). -/
def assemble (op : Op) (c : Command) : Instr :=
  match op with
  | .resolve => .resolve (immField c.word)
  | .config => .config (immField c.word) c.len c.bytes
  | .length => .length
  | .start => .start (ctxField c.word)
  | .next => .next (ctxField c.word)

/-- `Decode` of R69, total: the first row that selects the word, else a rejection by name. -/
def decode (c : Command) : Except DecodeError Instr :=
  match rows.find? (fun r => r.selects c.word) with
  | some r => .ok (assemble r.op c)
  | none => .error (rejection c.word)

/-- A command word from its fields, `RSV = 0` (R61, R74). -/
def packWord (imm : Byte) (ctx : Ctx) (op : BitVec 4) : Word :=
  (imm.setWidth 32 <<< 8) ||| (ctx.setWidth 32 <<< 4) ||| op.setWidth 32

/-- The word of a command (R76). -/
def encodeWord : Instr → Word
  | .resolve ct => packWord ct 0 0x1
  | .config dv _ _ => packWord dv 0 0x2
  | .length => packWord 0 0 0x3
  | .start c => packWord 0 c 0x4
  | .next c => packWord 0 c 0x5

/-- The `LEN` side operand presented with a command: CONFIG's own; 0 where it is ignored (R62). -/
def sideLen : Instr → Nat
  | .config _ len _ => len
  | .resolve _ => 0
  | .length => 0
  | .start _ => 0
  | .next _ => 0

/-- The buffer presented with a command: CONFIG's own; empty where it is ignored (R62). -/
def sideBytes : Instr → List Byte
  | .config _ _ bytes => bytes
  | .resolve _ => []
  | .length => []
  | .start _ => []
  | .next _ => []

/-- What the host presents to issue a command: its word and side operands (R74). -/
def encode (i : Instr) : Command := { word := encodeWord i, len := sideLen i, bytes := sideBytes i }

/-- The host's rule for an integer operand (R84, R91): 0..255 is presented as itself; any other integer is not presented
at all, never truncated, and the host reports the error itself. -/
def presentImm (v : Int) : Option Byte :=
  if 0 ≤ v ∧ v ≤ 255 then some (BitVec.ofNat 8 v.toNat) else none

/-- What the opcode table's bits `w` are on the command port: one 32-bit value, with no byte order (R70); bits at and above
`nbits` are 0, and so are the side operands. -/
def tableCommand (nbits w : Nat) : Command := { word := BitVec.ofNat 32 (w % 2 ^ nbits), len := 0, bytes := [] }

/-- The command the decoder reads from a row's bits. -/
def decodeTableWord (nbits w : Nat) : Option Instr :=
  match decode (tableCommand nbits w) with
  | .ok i => some i
  | .error _ => none

end Sys2Proof
end

