-- ==== Sys2Proof/Machine/State.lean ====
section
/-! DEFINITION. The state of the block as plain data (spec 10_state.md R20 to R35), its response record (30_encoding.md R71), what
the host can do to it (70_reset_and_hazards.md R171), the reasons a step can stop, and the state after reset (R32, R160). -/

namespace Sys2Proof.Machine

/-- The bound buffer's bytes as (index, byte) cells with strictly rising indices. An index that is not listed has NO value:
the buffer space is exactly the indices 0 .. CFG_LEN-1 (20_memory.md R40), and reading another index faults (R43; log 6). -/
abbrev Memory := List Host.Cell

/-- `STATUS` of a response (R72). Its value 3 is never produced and cannot be written here (93 I10). -/
inductive Status where
  /-- the command completed and did what its rule says. -/
  | ok
  /-- NEXT found its traversal at the end of the sequence. -/
  | endOfSequence
  /-- the command raised an error and changed no state. -/
  | err
  deriving DecidableEq, Repr

/-- The error kinds of 60_exceptions.md R130, and `noError` for code 0. Codes 6 .. 15 are never produced and cannot be written
here (93 I10). -/
inductive ErrKind where
  | noError
  | invalidColorType
  | invalidBitDepth
  | illegalCommand
  | notConfigured
  | badContext
  deriving DecidableEq, Repr

/-- The response record of one command (R71). -/
structure Response where
  status : Status
  errCode : ErrKind
  errVal : Byte
  data : Nat
  deriving DecidableEq, Repr

/-- One thing the host does to the block (70_reset_and_hazards.md R171). -/
inductive HostInput where
  /-- present one command with its side operands and wait for the response (R165, R168). -/
  | command (c : Command)
  /-- assert reset, possibly while a command is outstanding (R160, R161). -/
  | reset (outstanding : Option Command)
  /-- write `value` at index `index` of the buffer memory the host presented (duty of R163). -/
  | writeBuffer (index : Nat) (value : Byte)
  /-- make the presented buffer unreadable (duty of R163). -/
  | withdrawBuffer
  /-- several host threads present two commands without serialising them (duty of R165; 93 I13). -/
  | overlap (first second : Command)
  deriving DecidableEq, Repr

/-- The faults of the model. None can be reached from a state that meets the invariant `State.Inv` (R34, R57). -/
inductive Fault where
  /-- raised by `bufRead` at an index that is not below `CFG_LEN` (R43; 93 I12). Safe: the spec shows it cannot happen. -/
  | bufReadOutOfRange
  /-- raised by `bufRead` when no buffer is bound. Safe: NEXT reads only when `CFG_VALID = 1` (R100). -/
  | bufferUnbound
  /-- raised by `bufRead` at an index below `CFG_LEN` that the bound buffer does not list. Safe: CONFIG binds `CFG_LEN`
  bytes (R92). -/
  | byteNotPresented
  /-- raised by LENGTH and NEXT when `CFG_DSEL` is 5, 6 or 7 (93 I11). Safe: the values are never written (R34). -/
  | illegalDepthSelect
  deriving DecidableEq, Repr

/-- The refusals of the model: runs to which the spec gives no meaning because the host broke a duty (00_scope.md R19). -/
inductive Refusal where
  /-- raised by `exec` for a command without a meaning yet. Safe. -/
  | notModelled (mnemonic : String)
  /-- raised by CONFIG when its `LEN` does not fit in `LEN_W` bits: such a value cannot stand on the port (R63). Safe. -/
  | lenNotPresentable
  /-- raised by CONFIG when `LEN` is not the number of bytes presented (R164; 93 I6). Safe. -/
  | lengthMismatch
  /-- raised by `hostWrite` when the host changes a byte of the bound buffer (R163; 93 I5). Safe. -/
  | bufferChangedWhileBound
  /-- raised by `hostWithdraw` when the host makes the bound buffer unreadable, one of `LEN = 0` too (R163; 93 I5; log 5).
  Safe. -/
  | bufferWithdrawnWhileBound
  /-- raised by `hostOverlap`: commands presented without serialising (R165; 93 I13). Safe. -/
  | overlappingCommands
  deriving DecidableEq, Repr

/-- The state. `cfgValid` to `cur` are the architectural state, exactly as R20 lists it. `lenW`, `inputs` and `rsp` are the
model's own: the parameter `LEN_W` (log 1), what the host does next (log 2), and the response port (log 3). -/
structure State where
  /-- the parameter `LEN_W` (R8), written by no step. -/
  lenW : Nat
  /-- `CFG_VALID` (R22). -/
  cfgValid : Bool
  /-- `CFG_DSEL` (R23). -/
  cfgDsel : BitVec 3
  /-- `CFG_LEN` (R24), a number below `2^LEN_W`. -/
  cfgLen : Nat
  /-- `BUF` (R26): the bytes captured at CONFIG, `none` when unbound. -/
  buf : Option Memory
  /-- the cursor file `CUR[0 .. NUM_CTX-1]` (R25). Its length is the parameter `NUM_CTX` (R11). -/
  cur : List Nat
  /-- what the host does next, first first. -/
  inputs : List HostInput
  /-- the response record the latest step delivered, `none` if it delivered none. -/
  rsp : Option Response
  deriving DecidableEq, Repr

/-- `NUM_CTX` (R11): the number of cursors. -/
def State.numCtx (s : State) : Nat := s.cur.length

/-- The implementation parameters of a state. -/
def State.params (s : State) : Params := { lenW := s.lenW, numCtx := s.numCtx }

/-- The block with parameters `p` right after reset (R32, R160), with nothing presented by the host. -/
def State.resetWith (p : Params) : State :=
  { lenW := p.lenW
    cfgValid := false
    cfgDsel := 0
    cfgLen := 0
    buf := none
    cur := List.replicate p.numCtx 0
    inputs := []
    rsp := none }

/-- The block right after reset, with the parameters of log 1. -/
def State.reset : State := State.resetWith Params.ofVectors

end Sys2Proof.Machine
end

