-- ==== Sys2Proof/Machine/Flags.lean ====
section
/-! DEFINITION. The block has no flags and no condition codes (spec 10_state.md R29, 41_sample_sequencer.md R110): a command's
outcome stands in its response record alone. This file holds that record's values: its codes, its forms and its packed word
(30_encoding.md R71, R72; 60_exceptions.md R130). -/

namespace Sys2Proof.Machine

/-- The 2-bit `STATUS` value (R72). -/
def Status.code : Status → BitVec 2
  | .ok => 0
  | .endOfSequence => 1
  | .err => 2

/-- The 4-bit `ERRCODE` value (R130). -/
def ErrKind.code : ErrKind → BitVec 4
  | .noError => 0
  | .invalidColorType => 1
  | .invalidBitDepth => 2
  | .illegalCommand => 3
  | .notConfigured => 4
  | .badContext => 5

/-- `respond(OK, data, 0, 0)` (00_scope.md R16). -/
def Response.okData (data : Nat) : Response := { status := .ok, errCode := .noError, errVal := 0, data := data }

/-- `respond(END, 0, 0, 0)` (R101, R140). -/
def Response.endRsp : Response := { status := .endOfSequence, errCode := .noError, errVal := 0, data := 0 }

/-- `respond(ERR, 0, code(kind), value)` (R131). -/
def Response.error (kind : ErrKind) (value : Byte) : Response :=
  { status := .err, errCode := kind, errVal := value, data := 0 }

/-- The packed response word of R71, as a number: `STATUS` at bit 0, `ERRCODE` at bit 2, bits 7:6 zero, `ERRVAL` at bit 8,
`DATA` at bit 16. -/
def Response.pack (r : Response) : Nat :=
  r.status.code.toNat ||| (r.errCode.code.toNat <<< 2) ||| (r.errVal.toNat <<< 8) ||| (r.data <<< 16)

end Sys2Proof.Machine
end

