-- ==== Sys2Proof/Machine/Ops.lean ====
section
/-! DEFINITION. The operations over buffer, cursors and response port that the commands share; raising an error, which is all the
block has for an exception (spec 60_exceptions.md R131, R142; there is no return from one, R143); reset; and what the host does to
its own buffer. -/

namespace Sys2Proof.Machine

/-- Every result of a step. -/
abbrev Result := Host.Outcome State Fault Refusal

/-- Cells for bytes at rising indices from `first`. -/
def Memory.cellsFrom (first : Nat) : List Byte → Memory
  | [] => []
  | b :: rest => (first, b) :: Memory.cellsFrom (first + 1) rest

/-- The memory a host presents as a buffer: byte `i` at index `i` (20_memory.md R40). -/
def Memory.ofBytes (bytes : List Byte) : Memory := Memory.cellsFrom 0 bytes

/-- The byte at an index; no value where none is listed. -/
def Memory.read (m : Memory) (i : Nat) : Option Byte := m.lookup i

/-- The canonical form: strictly rising indices. An unlisted index has no value, so every listed byte differs from it. -/
abbrev Memory.wf (m : Memory) : Prop := m.Pairwise (fun x y => x.1 < y.1)

/-- `BufRead(i)` (R43): the byte at index `i < CFG_LEN` of the bound buffer; no effect on any state. -/
def bufRead (s : State) (i : Nat) : Except Fault Byte :=
  match s.buf with
  | none => .error .bufferUnbound
  | some m =>
    if i < s.cfgLen then
      match m.read i with
      | some b => .ok b
      | none => .error .byteNotPresented
    else .error .bufReadOutOfRange

/-- `CUR[c]` (R25). Read only where `c < NUM_CTX`. -/
def State.readCur (s : State) (c : Ctx) : Nat := s.cur.getD c.toNat 0

/-- `CUR[c] <- v` (R25). Written only where `c < NUM_CTX`. -/
def State.writeCur (s : State) (c : Ctx) (v : Nat) : State := { s with cur := s.cur.set c.toNat v }

/-- `CUR[c] <- 0` for every `c` in 0 .. NUM_CTX-1 (R92, R160). -/
def State.clearCur (s : State) : State := { s with cur := List.replicate s.numCtx 0 }

/-- `CFG_VALID <- 1; CFG_DSEL <- sel; CFG_LEN <- len; BUF <- bytes` (R92). -/
def State.bind (s : State) (sel : BitVec 3) (len : Nat) (bytes : List Byte) : State :=
  { s with cfgValid := true, cfgDsel := sel, cfgLen := len, buf := some (Memory.ofBytes bytes) }

/-- End a command with its response record (R16, R71). -/
def respond (r : Response) (s : State) : Result := .next { s with rsp := some r }

/-- `raise E(v)`: no state is written, and the response names the error and the offending value (R16, R131, R142). -/
def raise (kind : ErrKind) (value : Byte) (s : State) : Result := respond (Response.error kind value) s

/-- The BAD_CONTEXT check of START and NEXT (R135), before NOT_CONFIGURED (R138). -/
def requireContext (c : Ctx) (s : State) (go : Result) : Result :=
  if c.toNat < s.numCtx then go else raise .badContext (c.setWidth 8) s

/-- The NOT_CONFIGURED check of LENGTH, START and NEXT; `op` is the command's `OP` (R136). -/
def requireConfigured (op : Byte) (s : State) (go : Result) : Result :=
  if s.cfgValid then go else raise .notConfigured op s

/-- `CFG_DSEL` is one of its legal values 0 .. 4 (R23); 5, 6, 7 are never written (R34) and fault (93 I11). -/
def requireDepth (s : State) (go : Result) : Result :=
  if s.cfgDsel.toNat ≤ 4 then go else .fault .illegalDepthSelect

/-- CONFIG's side operands as the port can carry them and the host owes them: `LEN` in `LEN_W` bits (R63), and the length of
the buffer presented (R164; 93 I6). -/
def requireSideOperands (len : Nat) (bytes : List Byte) (s : State) (go : Result) : Result :=
  if len < 2 ^ s.lenW then
    if bytes.length = len then go else .refused .lengthMismatch
  else .refused .lenNotPresentable

/-- A word that matches no row: ILLEGAL_COMMAND with `ERRVAL = zext_8(OP)` (R134). -/
def illegalCommand (op : BitVec 4) (s : State) : Result := raise .illegalCommand (op.setWidth 8) s

/-- What the host does next, and the state with that taken off its list. -/
def fetchInput (s : State) : Option (HostInput × State) :=
  match s.inputs with
  | [] => none
  | i :: rest => some (i, { s with inputs := rest })

/-- Reset (R160): every piece of state at its reset value, no response. An outstanding command is abandoned, and whether it
had taken effect shows in nothing (R161; 93 I9). -/
def resetBlock (_outstanding : Option Command) (s : State) : Result :=
  .next { s.clearCur with cfgValid := false, cfgDsel := 0, cfgLen := 0, buf := none, rsp := none }

/-- No command is presented: the block is idle, and idling loses no state (60_exceptions.md R150); no response is delivered. -/
def idle (s : State) : Result := .next { s with rsp := none }

/-- The host writes its buffer memory. A byte of the bound buffer must keep its value (R163), else the run has no meaning
(93 I5); a write that touches no bound byte is no concern of the block. -/
def hostWrite (index : Nat) (value : Byte) (s : State) : Result :=
  match bufRead s index with
  | .ok b => if b = value then idle s else .refused .bufferChangedWhileBound
  | .error _ => idle s

/-- The host makes its buffer unreadable: no concern of the block while none is bound; a broken duty while one is (R163).
DESIGN CHOICE (log 5): a bound buffer of `LEN = 0` is treated as any other and its withdrawal refused, although the duty of R163
speaks of the buffer's `LEN` bytes, here none, and the spec names no act of withdrawal. -/
def hostWithdraw (s : State) : Result :=
  match s.buf with
  | none => idle s
  | some _ => .refused .bufferWithdrawnWhileBound

/-- Two commands presented without serialising: the spec says nothing of overlapping commands (R165; 93 I13). -/
def hostOverlap (_first _second : Command) (_s : State) : Result := .refused .overlappingCommands

end Sys2Proof.Machine
end

