-- ==== Sys2Proof/Machine/Operands.lean ====
section
/-! DEFINITION. The values the commands compute from their operands: the color-type table (spec 40_color_type_lut.md R80), the depth
selection (41_sample_sequencer.md R91), the sample count (R95) and the extraction of one sample (R99). All arithmetic is on
unbounded naturals and exact (00_scope.md R15, 41_sample_sequencer.md R109). -/

namespace Sys2Proof.Machine

/-- `LUT(ct)` (R80): the channel count of a color type, none for every integer outside {0, 2, 3, 4, 6}. -/
def lut (ct : Nat) : Option Nat :=
  match ct with
  | 0 => some 1
  | 2 => some 3
  | 3 => some 1
  | 4 => some 2
  | 6 => some 4
  | _ => none

/-- `DepthSel(v)` (R91): the base-2 logarithm of a valid depth, none for every other value. -/
def depthSel (v : Nat) : Option (BitVec 3) :=
  match v with
  | 1 => some 0
  | 2 => some 1
  | 4 => some 2
  | 8 => some 3
  | 16 => some 4
  | _ => none

/-- `SampleCount(L, s) = (L << 3) >> s` (R95). -/
def sampleCount (len sel : Nat) : Nat := (len <<< 3) >>> sel

/-- `Extract(k, 4)` (R99): the big-endian pair of bytes `2k`, `2k+1` (R45). -/
def extractPair (s : State) (k : Nat) : Except Fault Nat :=
  match bufRead s (2 * k) with
  | .error f => .error f
  | .ok a =>
    match bufRead s (2 * k + 1) with
    | .error f => .error f
    | .ok b => .ok ((a.toNat <<< 8) ||| b.toNat)

/-- The field of `d` bits at bit offset `p` from the most significant bit of byte 0, taken from the byte `x` that holds it
(R99). -/
def packedField (x : Byte) (d p : Nat) : Nat :=
  let sh := 8 - d - (p &&& 7)
  (x.toNat >>> sh) &&& ((1 <<< d) - 1)

/-- `Extract(k, s)` for depths 1, 2, 4, 8 (R99). -/
def extractField (s : State) (k sel : Nat) : Except Fault Nat :=
  let d := 1 <<< sel
  let p := k * d
  match bufRead s (p >>> 3) with
  | .error f => .error f
  | .ok x => .ok (packedField x d p)

/-- `Extract(k, s)` (R99): sample number `k` at depth `1 << sel`. -/
def extract (s : State) (k sel : Nat) : Except Fault Nat :=
  if sel = 4 then extractPair s k else extractField s k sel

end Sys2Proof.Machine
end

