-- ==== Sys2Proof/Machine/ColorTypeLut.lean ====
section
/-! DEFINITION. The sub-block color_type_lut: RESOLVE (spec 40_color_type_lut.md). It reads and writes no state (R81). -/

namespace Sys2Proof.Machine

/-- RESOLVE (R82). -/
def execResolve (ct : Byte) (s : State) : Result :=
  match lut ct.toNat with
  | some n => respond (.okData n) s
  | none => raise .invalidColorType ct s

end Sys2Proof.Machine
end

