-- ==== Sys2Proof/Machine/SampleSequencer.lean ====
section
/-! DEFINITION. The sample sequencer: CONFIG, LENGTH, START, NEXT (spec 41_sample_sequencer.md). -/

namespace Sys2Proof.Machine

/-- CONFIG once its side operands are as the host owes them (R92): the depth is checked before anything is written (R133), and
a failed CONFIG writes nothing (R94). -/
def configure (dv : Byte) (len : Nat) (bytes : List Byte) (s : State) : Result :=
  match depthSel dv.toNat with
  | none => raise .invalidBitDepth dv s
  | some sel => respond (.okData 0) (s.bind sel len bytes).clearCur

/-- CONFIG (R92 to R94); a run in which its side operands are not what the host owes is refused (R19, R164; log 4). -/
def execConfig (dv : Byte) (len : Nat) (bytes : List Byte) (s : State) : Result :=
  requireSideOperands len bytes s (configure dv len bytes s)

/-- LENGTH (R96). -/
def execLength (s : State) : Result :=
  requireConfigured 0x03 s <| requireDepth s <|
    respond (.okData (sampleCount s.cfgLen s.cfgDsel.toNat)) s

/-- START (R97). -/
def execStart (c : Ctx) (s : State) : Result :=
  requireContext c s <| requireConfigured 0x04 s <|
    respond (.okData 0) (s.writeCur c 0)

/-- NEXT (R100, R101). -/
def execNext (c : Ctx) (s : State) : Result :=
  requireContext c s <| requireConfigured 0x05 s <| requireDepth s <|
    if sampleCount s.cfgLen s.cfgDsel.toNat ≤ s.readCur c then respond .endRsp s
    else
      match extract s (s.readCur c) s.cfgDsel.toNat with
      | .error f => .fault f
      | .ok v => respond (.okData v) (s.writeCur c (s.readCur c + 1))

end Sys2Proof.Machine
end

