-- ==== Sys2Proof/Machine/Dispatch.lean ====
section
/-! DEFINITION. Which meaning each command has, one arm a constructor. -/

namespace Sys2Proof.Machine

def exec (i : Instr) (s : State) : Host.Outcome State Fault Refusal :=
  match i with
  | .resolve ct => Sys2Proof.Machine.execResolve ct s
  | .config dv len bytes => Sys2Proof.Machine.execConfig dv len bytes s
  | .length => Sys2Proof.Machine.execLength s
  | .start c => Sys2Proof.Machine.execStart c s
  | .next c => Sys2Proof.Machine.execNext c s

end Sys2Proof.Machine
end

