-- ==== Sys2Proof/Machine/Step.lean ====
section
/-! DEFINITION. One step of the block: it takes what the host does next and does what the spec says of it (00_scope.md R19;
70_reset_and_hazards.md R160, R165). -/

namespace Sys2Proof.Machine

/-- One command, total on every 32-bit word (R19, R69): a legal word runs, any other raises ILLEGAL_COMMAND (R134). -/
def runCommand (c : Command) (s : State) : Host.Outcome State Fault Refusal :=
  match decode c with
  | .ok i => exec i s
  | .error _ => illegalCommand (opField c.word) s

/-- One step (R19). -/
def step (s : State) : Host.Outcome State Fault Refusal :=
  match fetchInput s with
  | none => idle s
  | some (.command c, t) => runCommand c t
  | some (.reset outstanding, t) => resetBlock outstanding t
  | some (.writeBuffer index value, t) => hostWrite index value t
  | some (.withdrawBuffer, t) => hostWithdraw t
  | some (.overlap first second, t) => hostOverlap first second t

/-- The state in which the host's next action is to present the command with bits `w`: the block fetches nothing from memory
(20_memory.md R55), so a command is placed at the head of what the host does next (log 2). -/
def State.withFetchWord (s : State) (nbits w : Nat) : State :=
  { s with inputs := .command (tableCommand nbits w) :: s.inputs }

end Sys2Proof.Machine
end

