-- ==== Sys2Proof/Safety.lean ====
section
/-! DEFINITION. The terms the claims are stated in: the invariant of the block (spec 10_state.md R34, R35), the form of a response
(30_encoding.md R71 to R73), the sample sequence as the source's table gives it (41_sample_sequencer.md R98), and runs of several
commands. -/

namespace Sys2Proof.Machine

/-- `CFG_LEN` fits in its `LEN_W` bits (R24). -/
abbrev State.LenFits (s : State) : Prop := s.cfgLen < 2 ^ s.lenW

/-- R34: whenever `CFG_VALID = 1`, `CFG_DSEL` is in {0, 1, 2, 3, 4}. -/
abbrev State.DepthLegal (s : State) : Prop := s.cfgValid = true → s.cfgDsel.toNat ≤ 4

/-- R35: whenever `CFG_VALID = 1`, every cursor is at most the sample count. -/
abbrev State.CursorsInRange (s : State) : Prop :=
  s.cfgValid = true → ∀ k ∈ s.cur, k ≤ sampleCount s.cfgLen s.cfgDsel.toNat

/-- R26, R40: the bound buffer lists exactly the indices 0 .. CFG_LEN-1; it is unbound while there is no configuration. -/
abbrev State.BufferBound (s : State) : Prop :=
  s.buf.map (fun m => m.map Prod.fst) = if s.cfgValid then some (List.range s.cfgLen) else none

/-- R33, R32: while there is no configuration, everything CONFIG, START and NEXT write is at its reset value. -/
abbrev State.UnconfiguredAtReset (s : State) : Prop :=
  s.cfgValid = false → s.cfgDsel = 0 ∧ s.cfgLen = 0 ∧ ∀ k ∈ s.cur, k = 0

/-- What holds of the block at reset and after every step. -/
abbrev State.Inv (s : State) : Prop :=
  s.params.Legal ∧ s.LenFits ∧ s.DepthLegal ∧ s.CursorsInRange ∧ s.BufferBound ∧ s.UnconfiguredAtReset

/-- The form R71 to R73 give every response, `DATA` being `dataW` bits wide: error fields only with ERR, data only with OK. -/
abbrev Response.Wf (r : Response) (dataW : Nat) : Prop :=
  (r.status = .err ↔ r.errCode ≠ .noError) ∧ (r.status ≠ .err → r.errVal = 0) ∧ (r.status ≠ .ok → r.data = 0) ∧
    r.data < 2 ^ dataW

/-- The samples of a one-byte unit with value `x`, in the order of the table of R98; `sel` is the base-2 logarithm of the
depth. -/
def unitSamples (sel x : Nat) : List Nat :=
  match sel with
  | 3 => [x]
  | 2 => [x >>> 4, x &&& 0xF]
  | 1 => [x >>> 6, (x >>> 4) &&& 3, (x >>> 2) &&& 3, x &&& 3]
  | 0 => [(x >>> 7) &&& 1, (x >>> 6) &&& 1, (x >>> 5) &&& 1, (x >>> 4) &&& 1,
          (x >>> 3) &&& 1, (x >>> 2) &&& 1, (x >>> 1) &&& 1, x &&& 1]
  | _ => []

/-- The samples of two-byte units: `(a << 8) | b`; an odd trailing byte is dropped (R98, R105). -/
def pairSamples : List Byte → List Nat
  | a :: b :: rest => ((a.toNat <<< 8) ||| b.toNat) :: pairSamples rest
  | [_] => []
  | [] => []

/-- The sample sequence of a buffer as R98 tells it: units in buffer order, the samples of a unit in the order listed. -/
def unpack (sel : Nat) (bytes : List Byte) : List Nat :=
  if sel = 4 then pairSamples bytes else bytes.flatMap (fun b => unitSamples sel b.toNat)

/-- A configured state whose bound buffer is `bytes` at depth `1 << sel`. -/
abbrev State.Holds (s : State) (sel : Nat) (bytes : List Byte) : Prop :=
  s.cfgValid = true ∧ s.cfgDsel.toNat = sel ∧ s.cfgLen = bytes.length ∧ s.buf = some (Memory.ofBytes bytes)

/-- Commands one after the other (R165): the state at the end and each command with its response; none if one of them does not
end in a next state with a response. -/
def runAll : List Instr → State → Option (State × List (Instr × Response))
  | [], s => some (s, [])
  | i :: rest, s =>
    match exec i s with
    | .next t =>
      match t.rsp, runAll rest t with
      | some r, some (u, log) => some (u, (i, r) :: log)
      | _, _ => none
    | .fault _ => none
    | .refused _ => none

/-- START and NEXT on context `c`. -/
def onContext (c : Ctx) : Instr → Bool
  | .start d => d == c
  | .next d => d == c
  | .resolve _ => false
  | .config _ _ _ => false
  | .length => false

/-- CONFIG, the one command that can replace the configuration (R93). -/
def isConfig : Instr → Bool
  | .config _ _ _ => true
  | .resolve _ => false
  | .length => false
  | .start _ => false
  | .next _ => false

/-- The host's next action is reset (R160). -/
def State.resetNext (s : State) : Prop := ∃ outstanding, s.inputs.head? = some (.reset outstanding)

/-- The host's next action is to issue the command `i`. -/
def State.commandNext (s : State) (i : Instr) : Prop :=
  ∃ c, s.inputs.head? = some (.command c) ∧ decode c = .ok i

end Sys2Proof.Machine
end

