-- ==== Sys2Proof/Certificates/Slice0/Obligations.lean ====
section
/-! DEFINITION. The statements for the provers, each a numbered rule of spec/ or derived from several. -/

open Sys2Proof Sys2Proof.Machine

/-! ### Encoding -/

/-- Decoding what the host presents to issue a command gives that command, every operand at every value (R63, R69, R76). -/
def Obligations.DecodeOfEncode : Prop := ∀ i : Instr, decode (encode i) = .ok i

/-- Each legal word has one meaning: the decoded command's word is the word presented, and CONFIG keeps both side operands. -/
def Obligations.EncodeOfDecode : Prop :=
  ∀ (c : Command) (i : Instr), decode c = .ok i →
    (encode i).word = c.word ∧ (isConfig i = true → encode i = c)

/-- R65: "The rows differ in OP, so at most one row matches any word." -/
def Obligations.AtMostOneRowMatches : Prop :=
  ∀ (w : Word) (r q : Row), r ∈ rows → q ∈ rows → r.selects w = true → q.selects w = true → r = q

/-- R66 to R68: a word is rejected exactly when its `OP` is reserved or a must-be-zero field is nonzero. -/
def Obligations.IllegalWordsExactly : Prop :=
  ∀ c : Command, (∃ e, decode c = .error e) ↔
    ((opField c.word = 0 ∨ 6 ≤ (opField c.word).toNat) ∨ rsvField c.word ≠ 0 ∨
      ((opField c.word = 1 ∨ opField c.word = 2 ∨ opField c.word = 3) ∧ ctxField c.word ≠ 0) ∨
      ((opField c.word = 3 ∨ opField c.word = 4 ∨ opField c.word = 5) ∧ immField c.word ≠ 0))

/-- The two names a rejection carries: a reserved `OP` (R66), or a must-be-zero field under an assigned `OP` (R67). -/
def Obligations.RejectionIsNamed : Prop :=
  ∀ (c : Command) (e : DecodeError), decode c = .error e →
    ((opField c.word = 0 ∨ 6 ≤ (opField c.word).toNat) → e = .reservedOp (opField c.word)) ∧
    (¬ (opField c.word = 0 ∨ 6 ≤ (opField c.word).toNat) → e = .mustBeZero (opField c.word))

/-- Words written out bit by bit from R65 and R74 (and R76's examples) decode to the commands they stand for. -/
def Obligations.WrittenWordsDecode : Prop :=
  decode ⟨0b0000000000000000_00000110_0000_0001, 0, []⟩ = .ok (.resolve 6) ∧
  decode ⟨0b0000000000000000_00010000_0000_0010, 3, [1, 2, 3]⟩ = .ok (.config 16 3 [1, 2, 3]) ∧
  decode ⟨0b0000000000000000_00000000_0000_0011, 0, []⟩ = .ok .length ∧
  decode ⟨0b0000000000000000_00000000_1111_0100, 0, []⟩ = .ok (.start 15) ∧
  decode ⟨0b0000000000000000_00000000_0001_0101, 0, []⟩ = .ok (.next 1) ∧
  decode ⟨0b0000000000000000_00000000_0000_0000, 0, []⟩ = .error (.reservedOp 0) ∧
  decode ⟨0b0000000000000001_00000000_0000_0001, 0, []⟩ = .error (.mustBeZero 1)

/-- R84, R91: an integer is presented as itself when it is in 0 .. 255 and is not presented, so never truncated, otherwise. -/
def Obligations.NoOperandIsTruncated : Prop :=
  (∀ v : Int, presentImm v = none ↔ (v < 0 ∨ 255 < v)) ∧
  (∀ (v : Int) (b : Byte), presentImm v = some b → (b.toNat : Int) = v)

/-! ### The step -/

/-- When the host presents a command, the step runs it on the state with the command taken off the host's list (the list is the
model's own, log 2); when its word decodes, that is the decoded command's meaning and nothing else is around it (R19, R165). -/
def Obligations.StepRunsDecodedCommand : Prop :=
  (∀ (s : State) (c : Command) (rest : List HostInput),
    s.inputs = .command c :: rest → step s = runCommand c { s with inputs := rest }) ∧
  ∀ (s : State) (c : Command) (rest : List HostInput) (i : Instr),
    s.inputs = .command c :: rest → decode c = .ok i → step s = exec i { s with inputs := rest }

/-- Issuing any command `i` as R74 writes it runs the meaning of `i` in one step. -/
def Obligations.IssuedCommandRuns : Prop :=
  ∀ (s : State) (i : Instr) (rest : List HostInput),
    s.inputs = .command (encode i) :: rest → step s = exec i { s with inputs := rest }

/-- R134, with R66 and R67 for which words these are: a word with a reserved `OP` or a nonzero must-be-zero field raises
ILLEGAL_COMMAND, `ERRVAL` its `OP`, and changes no state. -/
def Obligations.IllegalCommandRaised : Prop :=
  ∀ (s : State) (c : Command),
    ((opField c.word = 0 ∨ 6 ≤ (opField c.word).toNat) ∨ rsvField c.word ≠ 0 ∨
      ((opField c.word = 1 ∨ opField c.word = 2 ∨ opField c.word = 3) ∧ ctxField c.word ≠ 0) ∨
      ((opField c.word = 3 ∨ opField c.word = 4 ∨ opField c.word = 5) ∧ immField c.word ≠ 0)) →
    runCommand c s = .next { s with
      rsp := some { status := .err, errCode := .illegalCommand, errVal := (opField c.word).setWidth 8, data := 0 } }

/-- R165: a step that goes on has taken exactly the first thing the host does, and none of the others. The list of what the host
does is the model's own (log 2). -/
def Obligations.StepTakesOneInput : Prop :=
  ∀ s t : State, step s = .next t → t.inputs = s.inputs.tail

/-- No step changes the parameters `LEN_W` and `NUM_CTX` (R8, R11). That State carries them is the model's choice (log 1). -/
def Obligations.ParametersConstant : Prop :=
  ∀ s t : State, step s = .next t → t.params = s.params

/-- R150: with nothing presented the block is idle; the architectural state is unchanged. That the response port shows nothing
after an idle step is the model's choice (log 3). -/
def Obligations.IdleLosesNothing : Prop :=
  ∀ s : State, s.inputs = [] → step s = .next { s with rsp := none }

/-- R19 with R163 and R165: the runs in which the host breaks a duty are refused by name. That these acts of the host are inputs of
the model, and the names, are the model's choice (log 5), and so is refusing the withdrawal of a bound buffer of `LEN = 0`. -/
def Obligations.BrokenHostDutiesRefused : Prop :=
  (∀ (s : State) (rest : List HostInput) (a : Nat) (v b : Byte),
    s.inputs = .writeBuffer a v :: rest → bufRead s a = .ok b → b ≠ v → step s = .refused .bufferChangedWhileBound) ∧
  (∀ (s : State) (rest : List HostInput) (m : Memory),
    s.inputs = .withdrawBuffer :: rest → s.buf = some m → step s = .refused .bufferWithdrawnWhileBound) ∧
  (∀ (s : State) (rest : List HostInput) (a b : Command),
    s.inputs = .overlap a b :: rest → step s = .refused .overlappingCommands)

/-! ### RESOLVE -/

/-- R82 with the table of R80 and the error of R132: RESOLVE's whole effect, in every state. -/
def Obligations.ResolveAnswersTable : Prop :=
  ∀ (ct : Byte) (s : State), exec (.resolve ct) s = .next { s with
    rsp := some (
      if ct = 0 then { status := .ok, errCode := .noError, errVal := 0, data := 1 }
      else if ct = 2 then { status := .ok, errCode := .noError, errVal := 0, data := 3 }
      else if ct = 3 then { status := .ok, errCode := .noError, errVal := 0, data := 1 }
      else if ct = 4 then { status := .ok, errCode := .noError, errVal := 0, data := 2 }
      else if ct = 6 then { status := .ok, errCode := .noError, errVal := 0, data := 4 }
      else { status := .err, errCode := .invalidColorType, errVal := ct, data := 0 }) }

/-! ### CONFIG -/

/-- R91: `DepthSel` answers `sel` exactly for the depth `1 << sel` with `sel` in 0 .. 4, and none for every other value. -/
def Obligations.DepthSelExactly : Prop :=
  ∀ (v : Byte) (sel : BitVec 3),
    depthSel v.toNat = some sel ↔ (sel.toNat ≤ 4 ∧ v.toNat = 1 <<< sel.toNat)

/-- R92: a CONFIG with a valid depth and the side operands the host owes succeeds in every state, and this is all it does. -/
def Obligations.ConfigSucceeds : Prop :=
  ∀ (s : State) (dv : Byte) (sel : BitVec 3) (len : Nat) (bytes : List Byte),
    sel.toNat ≤ 4 → dv.toNat = 1 <<< sel.toNat → len < 2 ^ s.lenW → bytes.length = len →
    exec (.config dv len bytes) s = .next { s with
      cfgValid := true
      cfgDsel := sel
      cfgLen := len
      buf := some (Memory.ofBytes bytes)
      cur := List.replicate s.numCtx 0
      rsp := some { status := .ok, errCode := .noError, errVal := 0, data := 0 } }

/-- R42, R43: after a successful CONFIG, `BufRead(i)` is byte `i` of the buffer presented for every `i < LEN`, and every other
index is out of the buffer. -/
def Obligations.ConfigBindsPresentedBytes : Prop :=
  ∀ (s t : State) (dv : Byte) (sel : BitVec 3) (len : Nat) (bytes : List Byte),
    depthSel dv.toNat = some sel → exec (.config dv len bytes) s = .next t →
    (∀ (i : Nat) (b : Byte), bytes[i]? = some b → bufRead t i = .ok b) ∧
    (∀ i : Nat, len ≤ i → bufRead t i = .error .bufReadOutOfRange)

/-- R133 with R94: an invalid depth raises INVALID_BIT_DEPTH carrying it and writes no state, whatever configuration is held. -/
def Obligations.ConfigInvalidDepth : Prop :=
  ∀ (s : State) (dv : Byte) (len : Nat) (bytes : List Byte),
    dv ≠ 1 → dv ≠ 2 → dv ≠ 4 → dv ≠ 8 → dv ≠ 16 → len < 2 ^ s.lenW → bytes.length = len →
    exec (.config dv len bytes) s = .next { s with
      rsp := some { status := .err, errCode := .invalidBitDepth, errVal := dv, data := 0 } }

/-- R164, R63 with R19: CONFIG is refused exactly when its `LEN` cannot stand on the port or is not the number of bytes
presented. That it is refused before its depth is looked at is the model's choice (log 4). -/
def Obligations.ConfigRefusedExactly : Prop :=
  ∀ (s : State) (dv : Byte) (len : Nat) (bytes : List Byte),
    (∃ r, exec (.config dv len bytes) s = .refused r) ↔ Instr.wf s.params (.config dv len bytes) = false

/-- R167: NEXT directly after CONFIG returns sample 0 of the new configuration, on every context, whatever was held before. -/
def Obligations.NextAfterConfigIsSampleZero : Prop :=
  ∀ (s t : State) (dv : Byte) (sel : BitVec 3) (len : Nat) (bytes : List Byte) (c : Ctx) (v : Nat) (more : List Nat),
    depthSel dv.toNat = some sel → exec (.config dv len bytes) s = .next t → c.toNat < s.numCtx →
    unpack sel.toNat bytes = v :: more →
    exec (.next c) t = .next { t with
      cur := t.cur.set c.toNat 1
      rsp := some { status := .ok, errCode := .noError, errVal := 0, data := v } }

/-! ### LENGTH -/

/-- R95: the sample count is `floor(L * 8 / d)`, per depth as the table has it, and is below `2^CNT_W`. -/
def Obligations.SampleCountValue : Prop :=
  ∀ (p : Params) (len sel : Nat), len < 2 ^ p.lenW → sel ≤ 4 →
    sampleCount len sel = len * 8 / 2 ^ sel ∧ sampleCount len sel < 2 ^ p.cntW ∧
    sampleCount len 4 = len / 2 ∧ sampleCount len 3 = len ∧ sampleCount len 2 = 2 * len ∧
    sampleCount len 1 = 4 * len ∧ sampleCount len 0 = 8 * len

/-- R96: LENGTH of a configuration answers the sample count and writes no state. -/
def Obligations.LengthAnswersCount : Prop :=
  ∀ s : State, s.cfgValid = true → s.DepthLegal →
    exec .length s = .next { s with
      rsp := some { status := .ok, errCode := .noError, errVal := 0, data := s.cfgLen * 8 / 2 ^ s.cfgDsel.toNat } }

/-! ### START and NEXT -/

/-- R97: START sets the cursor of its context to 0 and does nothing else. -/
def Obligations.StartClearsCursor : Prop :=
  ∀ (s : State) (c : Ctx), s.cfgValid = true → c.toNat < s.numCtx →
    exec (.start c) s = .next { s with
      cur := s.cur.set c.toNat 0
      rsp := some { status := .ok, errCode := .noError, errVal := 0, data := 0 } } ∧
    (s.writeCur c 0).readCur c = 0

/-- R100: NEXT below the end answers `Extract(CUR[c], CFG_DSEL)`, advances the cursor by 1 and does nothing else. -/
def Obligations.NextProducesSample : Prop :=
  ∀ (s : State) (c : Ctx), s.Inv → s.cfgValid = true → c.toNat < s.numCtx →
    s.readCur c < sampleCount s.cfgLen s.cfgDsel.toNat →
    ∃ v, extract s (s.readCur c) s.cfgDsel.toNat = .ok v ∧
      exec (.next c) s = .next { s with
        cur := s.cur.set c.toNat (s.readCur c + 1)
        rsp := some { status := .ok, errCode := .noError, errVal := 0, data := v } }

/-- R101: at the end NEXT answers END and writes nothing, in every state with a legal depth. -/
def Obligations.NextAtEnd : Prop :=
  ∀ (s : State) (c : Ctx), s.cfgValid = true → s.DepthLegal → c.toNat < s.numCtx →
    sampleCount s.cfgLen s.cfgDsel.toNat ≤ s.readCur c →
    exec (.next c) s = .next { s with
      rsp := some { status := .endOfSequence, errCode := .noError, errVal := 0, data := 0 } }

/-- R57: the indices of the bytes that make sample `k` lie inside the buffer, and in no state at all does NEXT end in a read
at an index that is not below `CFG_LEN`. -/
def Obligations.ReadsStayInRange : Prop :=
  (∀ len sel k : Nat, sel ≤ 4 → k < sampleCount len sel →
    (sel = 4 → 2 * k < len ∧ 2 * k + 1 < len) ∧ (sel < 4 → (k * 2 ^ sel) / 8 < len)) ∧
  ∀ (s : State) (c : Ctx), exec (.next c) s ≠ .fault .bufReadOutOfRange

/-- R111 with R44: at a depth below 8 (and at 8 itself) sample `k` is lane `k mod (8/d)` of byte `floor(k / (8/d))`, lane 0 the
most significant. -/
def Obligations.SampleIsByteLane : Prop :=
  ∀ (s : State) (bytes : List Byte) (sel k : Nat) (x : Byte), sel < 4 → s.Holds sel bytes →
    bytes[k / (8 / 2 ^ sel)]? = some x →
    extract s k sel = .ok (x.toNat / 2 ^ (8 - (k % (8 / 2 ^ sel) + 1) * 2 ^ sel) % 2 ^ (2 ^ sel))

/-- R45: at depth 16 sample `k` is the big-endian pair of bytes `2k` and `2k+1`. -/
def Obligations.SampleIsBigEndianPair : Prop :=
  ∀ (s : State) (bytes : List Byte) (k : Nat) (a b : Byte), s.Holds 4 bytes →
    bytes[2 * k]? = some a → bytes[2 * k + 1]? = some b →
    extract s k 4 = .ok (256 * a.toNat + b.toNat)

/-- R102: a sample NEXT returns at depth `d` is at most `2^d - 1`, in every state with a legal depth. -/
def Obligations.SampleRange : Prop :=
  ∀ (s t : State) (c : Ctx) (r : Response), s.cfgDsel.toNat ≤ 4 → exec (.next c) s = .next t →
    t.rsp = some r → r.status = .ok → r.data ≤ 2 ^ (2 ^ s.cfgDsel.toNat) - 1

/-- R105, R47: at depth 16 with an odd length, the last byte shows in no answer of NEXT or LENGTH, and it is no error: LENGTH
answers OK with `floor(CFG_LEN/2)`, and NEXT on a context that exists answers OK or END. -/
def Obligations.OddTrailingByteDropped : Prop :=
  ∀ (s t : State) (c : Ctx) (bytes : List Byte) (x y : Byte), bytes.length % 2 = 0 →
    s.Holds 4 (bytes ++ [x]) → t = { s with buf := some (Memory.ofBytes (bytes ++ [y])) } →
    sampleCount s.cfgLen s.cfgDsel.toNat = s.cfgLen / 2 ∧ s.cfgLen % 2 = 1 ∧
    (∀ s', exec (.next c) s = .next s' → exec (.next c) t = .next { s' with buf := t.buf }) ∧
    (∀ s', exec .length s = .next s' → exec .length t = .next { s' with buf := t.buf }) ∧
    exec .length s = .next { s with rsp := some (Response.okData (s.cfgLen / 2)) } ∧
    (c.toNat < s.numCtx → ∃ s' r, exec (.next c) s = .next s' ∧ s'.rsp = some r ∧
      (r.status = .ok ∨ r.status = .endOfSequence))

/-- R98, R99: the samples `Extract(0) .. Extract(n-1)` are the sequence the source's table describes unit by unit. -/
def Obligations.ExtractIsSourceSequence : Prop :=
  ∀ (s : State) (sel : Nat) (bytes : List Byte), sel ≤ 4 → s.Holds sel bytes →
    (List.range (sampleCount s.cfgLen sel)).map (fun k => extract s k sel) = (unpack sel bytes).map Except.ok

/-- R103: START then NEXT until END: the answers are the samples in buffer order, as many as LENGTH says, then END for every
further NEXT; only the context's cursor has moved, to the count. -/
def Obligations.FullTraversal : Prop :=
  ∀ (s : State) (c : Ctx) (sel : Nat) (bytes : List Byte) (extra : Nat), sel ≤ 4 → s.Holds sel bytes →
    c.toNat < s.numCtx →
    (∃ t log, runAll (.start c :: List.replicate (sampleCount s.cfgLen sel + (extra + 1)) (.next c)) s = some (t, log) ∧
      log.map Prod.snd = Response.okData 0 :: ((unpack sel bytes).map Response.okData ++
        List.replicate (extra + 1) Response.endRsp) ∧
      t = { s with cur := s.cur.set c.toNat (sampleCount s.cfgLen sel), rsp := some Response.endRsp }) ∧
    exec .length s = .next { s with rsp := some (Response.okData (unpack sel bytes).length) }

/-- R103 with CONFIG as the opening command: on any context, the first NEXT after CONFIG gives sample 0 and the traversal goes to
the end of the new configuration's sequence, whatever was held before. -/
def Obligations.FullTraversalFromConfig : Prop :=
  ∀ (s : State) (c : Ctx) (dv : Byte) (sel : BitVec 3) (len : Nat) (bytes : List Byte) (extra : Nat),
    depthSel dv.toNat = some sel → len < 2 ^ s.lenW → bytes.length = len → c.toNat < s.numCtx →
    ∃ t log, runAll (.config dv len bytes ::
        List.replicate (sampleCount len sel.toNat + (extra + 1)) (.next c)) s = some (t, log) ∧
      log.map Prod.snd = Response.okData 0 :: ((unpack sel.toNat bytes).map Response.okData ++
        List.replicate (extra + 1) Response.endRsp) ∧
      t.Holds sel.toNat bytes ∧ t.readCur c = sampleCount len sel.toNat

/-- R104: traversals of one configuration give identical sequences, on whatever contexts, after whatever history, and however far
they are pulled. -/
def Obligations.TraversalsIdentical : Prop :=
  ∀ (s u s' u' : State) (c d : Ctx) (n : Nat) (log log' : List (Instr × Response)),
    s.cfgValid = true → u.cfgValid = true → s.cfgDsel = u.cfgDsel → s.cfgLen = u.cfgLen → s.buf = u.buf →
    c.toNat < s.numCtx → d.toNat < u.numCtx →
    runAll (.start c :: List.replicate n (.next c)) s = some (s', log) →
    runAll (.start d :: List.replicate n (.next d)) u = some (u', log') →
    log.map Prod.snd = log'.map Prod.snd

/-- R106: in any interleaving of commands with no CONFIG, each context's answers are those it gives when its own commands run
alone, and its cursor ends where it then ends. -/
def Obligations.ContextsIndependent : Prop :=
  ∀ (s : State) (c : Ctx) (prog : List Instr), s.Inv → (∀ i ∈ prog, isConfig i = false) →
    ∃ t log u, runAll prog s = some (t, log) ∧
      runAll (prog.filter (onContext c)) s = some (u, log.filter (fun e => onContext c e.1)) ∧
      u.readCur c = t.readCur c

/-! ### Errors -/

/-- R135: a context that does not exist is BAD_CONTEXT whatever else the state holds (so before NOT_CONFIGURED, R138), and with
`NUM_CTX = 16` no command raises it. -/
def Obligations.BadContextFirst : Prop :=
  (∀ (s t : State) (i : Instr) (r : Response), s.numCtx = 16 → exec i s = .next t → t.rsp = some r →
    r.errCode ≠ .badContext) ∧
  ∀ (s : State) (c : Ctx), s.numCtx ≤ c.toNat →
    exec (.start c) s = .next { s with
      rsp := some { status := .err, errCode := .badContext, errVal := c.setWidth 8, data := 0 } } ∧
    exec (.next c) s = .next { s with
      rsp := some { status := .err, errCode := .badContext, errVal := c.setWidth 8, data := 0 } }

/-- R136: LENGTH, START and NEXT raise NOT_CONFIGURED, carrying their `OP`, while `CFG_VALID = 0`; RESOLVE and CONFIG never
raise it. -/
def Obligations.NotConfiguredRaised : Prop :=
  (∀ (s t : State) (i : Instr) (r : Response), exec i s = .next t → t.rsp = some r → r.errCode = .notConfigured →
    s.cfgValid = false ∧ isConfig i = false ∧ ∀ ct, i ≠ .resolve ct) ∧
  ∀ s : State, s.cfgValid = false →
    exec .length s = .next { s with
      rsp := some { status := .err, errCode := .notConfigured, errVal := 0x03, data := 0 } } ∧
    ∀ c : Ctx, c.toNat < s.numCtx →
      exec (.start c) s = .next { s with
        rsp := some { status := .err, errCode := .notConfigured, errVal := 0x04, data := 0 } } ∧
      exec (.next c) s = .next { s with
        rsp := some { status := .err, errCode := .notConfigured, errVal := 0x05, data := 0 } }

/-- R131: a command whose response is an error has written no state: only the response port shows it, and no later command sees
it there. -/
def Obligations.ErrorsWriteNothing : Prop :=
  ∀ (s t : State) (c : Command) (r : Response), runCommand c s = .next t → t.rsp = some r → r.status = .err →
    t = { s with rsp := some r } ∧ r.data = 0 ∧ ∀ later : Command, runCommand later t = runCommand later s

/-- R139: once configured, a NEXT on a context that exists answers OK or END, never an error, a fault or a refusal. -/
def Obligations.NoErrorMidTraversal : Prop :=
  ∀ (s : State) (c : Ctx), s.Inv → s.cfgValid = true → c.toNat < s.numCtx →
    ∃ t r, exec (.next c) s = .next t ∧ t.rsp = some r ∧ (r.status = .ok ∨ r.status = .endOfSequence)

/-- R71 to R73: a step that takes a command, legal or not, goes on and delivers a response of the form the rules give; a command
that decodes is one the host may present (well formed), since a CONFIG with a wrong `LEN` is refused (log 4). -/
def Obligations.EveryCommandResponds : Prop :=
  ∀ (s : State) (c : Command) (rest : List HostInput), s.Inv → s.inputs = .command c :: rest →
    (∀ i, decode c = .ok i → i.wf s.params = true) →
    ∃ t r, step s = .next t ∧ t.rsp = some r ∧ r.Wf s.params.dataW

/-- R71: the fields of the packed response word stand where the rule puts them, and the word is `16 + DATA_W` bits wide. -/
def Obligations.PackedResponseFields : Prop :=
  ∀ (r : Response) (dataW : Nat), r.data < 2 ^ dataW →
    r.pack % 4 = r.status.code.toNat ∧ r.pack / 4 % 16 = r.errCode.code.toNat ∧ r.pack / 64 % 4 = 0 ∧
    r.pack / 256 % 256 = r.errVal.toNat ∧ r.pack / 65536 = r.data ∧ r.pack < 2 ^ (16 + dataW)

/-! ### Reset -/

/-- R160 with R32's values: reset, with or without a command outstanding, leaves every piece of state at its reset value, for
every choice of the parameters, and delivers no response. -/
def Obligations.ResetValues : Prop :=
  ∀ (s : State) (outstanding : Option Command) (rest : List HostInput),
    s.inputs = .reset outstanding :: rest →
    ∃ t, step s = .next t ∧ t.cfgValid = false ∧ t.cfgDsel = 0 ∧ t.cfgLen = 0 ∧ t.buf = none ∧
      t.cur = List.replicate s.numCtx 0 ∧ (∀ c, t.readCur c = 0) ∧ t.rsp = none

/-- R161: whether or not an abandoned command had taken effect, the state after reset is the same. That reset does the same with
a command outstanding as with none is the model's choice (log 10). -/
def Obligations.ResetHidesAbandonedCommand : Prop :=
  ∀ (s t : State) (c : Command), runCommand c s = .next t →
    resetBlock (some c) t = resetBlock (some c) s ∧ resetBlock (some c) s = resetBlock none s

/-- R162: right after reset, LENGTH, START and NEXT raise NOT_CONFIGURED, for every choice of the parameters. -/
def Obligations.AfterResetNotConfigured : Prop :=
  ∀ (p : Params) (c : Ctx), p.Legal → c.toNat < p.numCtx →
    exec .length (State.resetWith p) = .next { State.resetWith p with rsp := some (Response.error .notConfigured 3) } ∧
    exec (.start c) (State.resetWith p) = .next { State.resetWith p with rsp := some (Response.error .notConfigured 4) } ∧
    exec (.next c) (State.resetWith p) = .next { State.resetWith p with rsp := some (Response.error .notConfigured 5) }

/-! ### Frames and access (R33) -/

/-- R33: RESOLVE and LENGTH write nothing: no configuration register, no cursor, no binding; every byte reads as before. -/
def Obligations.FrameOfResolveAndLength : Prop :=
  ∀ (s t : State) (ct : Byte), (exec (.resolve ct) s = .next t ∨ exec .length s = .next t) →
    t = { s with rsp := t.rsp } ∧ ∀ a, bufRead t a = bufRead s a

/-- R33, R106: START and NEXT write no cursor but their own context's and no configuration; every byte reads as before. -/
def Obligations.FrameOfStartAndNext : Prop :=
  ∀ (s t : State) (c : Ctx), (exec (.start c) s = .next t ∨ exec (.next c) s = .next t) →
    t = { s with cur := t.cur, rsp := t.rsp } ∧ t.numCtx = s.numCtx ∧
    (∀ d : Ctx, d ≠ c → t.readCur d = s.readCur d) ∧ ∀ a, bufRead t a = bufRead s a

/-- R33, R94: CONFIG writes the configuration and the cursors alone; when it fails, nothing, and every byte reads as before. -/
def Obligations.FrameOfConfig : Prop :=
  ∀ (s t : State) (dv : Byte) (len : Nat) (bytes : List Byte), exec (.config dv len bytes) s = .next t →
    t.lenW = s.lenW ∧ t.numCtx = s.numCtx ∧ t.inputs = s.inputs ∧
    (depthSel dv.toNat = none → t = { s with rsp := t.rsp } ∧ ∀ a, bufRead t a = bufRead s a)

/-- R22: `CFG_VALID` goes to 1 only by a CONFIG that succeeds, and to 0 only by reset. -/
def Obligations.CfgValidWriters : Prop :=
  ∀ s t : State, step s = .next t →
    (s.cfgValid = false → t.cfgValid = true →
      ∃ dv len bytes, s.commandNext (.config dv len bytes) ∧ (depthSel dv.toNat).isSome = true) ∧
    (s.cfgValid = true → t.cfgValid = false → s.resetNext)

/-- R25: a cursor changes only by reset, by a CONFIG that succeeds, or by START or NEXT on its own context; NEXT moves it up by
exactly 1 and START and the others to 0. -/
def Obligations.CursorWriters : Prop :=
  ∀ (s t : State) (c : Ctx), step s = .next t → t.readCur c ≠ s.readCur c →
    (t.readCur c = 0 ∧ (s.resetNext ∨ s.commandNext (.start c) ∨
      ∃ dv len bytes, s.commandNext (.config dv len bytes) ∧ (depthSel dv.toNat).isSome = true)) ∨
    (t.readCur c = s.readCur c + 1 ∧ s.commandNext (.next c))

/-! ### Invariants -/

/-- The invariant holds right after reset, for every legal choice of the parameters, the model's own (log 1) among them. -/
def Obligations.InvariantAtReset : Prop :=
  (∀ p : Params, p.Legal → (State.resetWith p).Inv) ∧ State.reset.Inv

/-- Every step from a state that meets the invariant leads to one that meets it, whatever the host does. -/
def Obligations.InvariantKept : Prop :=
  ∀ s t : State, s.Inv → step s = .next t → t.Inv

/-- From a state that meets the invariant no step faults: no read is out of range and no depth is illegal (R57, R34). -/
def Obligations.NoFaultFromInvariant : Prop :=
  ∀ (s : State) (f : Fault), s.Inv → step s ≠ .fault f

/-- R34 by itself: every step keeps `CFG_DSEL` legal whenever `CFG_VALID = 1`, in every state, reached or not. -/
def Obligations.DepthSelectStaysLegal : Prop :=
  (∀ p : Params, (State.resetWith p).DepthLegal) ∧ ∀ s t : State, s.DepthLegal → step s = .next t → t.DepthLegal

/-- R35: every cursor stays at most the sample count, so it fits in `CNT_W` bits and never wraps. -/
def Obligations.CursorNeverWraps : Prop :=
  (∀ p : Params, (State.resetWith p).CursorsInRange) ∧
  (∀ s t : State, s.CursorsInRange → step s = .next t → t.CursorsInRange) ∧
  (∀ s : State, s.Inv → ∀ k ∈ s.cur, k < 2 ^ s.params.cntW)
end

