-- ==== Sys2Proof/Laws/Memory.lean ====
section
/-! SUPPORT. The buffer: its canonical form, and what `BufRead` reads of a buffer bound from bytes (spec 20_memory.md R40, R43). -/

namespace Sys2Proof.Machine

theorem cellsFrom_indices (first : Nat) (bytes : List Byte) :
    (Memory.cellsFrom first bytes).map Prod.fst = List.range' first bytes.length := by
  induction bytes generalizing first with
  | nil => rfl
  | cons b rest ih => simp [Memory.cellsFrom, ih, List.range'_succ]

/-- A bound buffer lists exactly the indices 0 .. L-1. -/
theorem ofBytes_indices (bytes : List Byte) :
    (Memory.ofBytes bytes).map Prod.fst = List.range bytes.length := by
  simp [Memory.ofBytes, cellsFrom_indices, List.range_eq_range']

/-- Indices in rising order are the canonical form. -/
theorem wf_of_indices (m : Memory) (n : Nat) (h : m.map Prod.fst = List.range n) : m.wf := by
  have : (m.map Prod.fst).Pairwise (· < ·) := h ▸ List.pairwise_lt_range
  exact (List.pairwise_map).1 this

/-- Binding a buffer, the one operation that makes a memory, makes it canonical. -/
theorem ofBytes_wf (bytes : List Byte) : (Memory.ofBytes bytes).wf :=
  wf_of_indices _ _ (ofBytes_indices bytes)

/-- The memory of the state after reset is canonical: nothing is bound. -/
theorem reset_memory_wf (p : Params) : ∀ m ∈ (State.resetWith p).buf, Memory.wf m := by
  intro m h
  simp [State.resetWith] at h

theorem cellsFrom_read (first i : Nat) (bytes : List Byte) :
    (Memory.cellsFrom first bytes).read (first + i) = bytes[i]? := by
  induction bytes generalizing first i with
  | nil => rfl
  | cons b rest ih =>
    cases i with
    | zero => simp [Memory.cellsFrom, Memory.read]
    | succ i =>
      have hsum : first + (i + 1) = first + 1 + i := by omega
      have hne : (first + 1 + i == first) = false := by
        rw [beq_eq_false_iff_ne]
        omega
      rw [hsum]
      simpa [Memory.cellsFrom, Memory.read, List.lookup, hne] using ih (first + 1) i

/-- Reading a bound buffer reads the byte presented at that index, and no value beyond them. -/
theorem ofBytes_read (bytes : List Byte) (i : Nat) : (Memory.ofBytes bytes).read i = bytes[i]? := by
  simpa [Memory.ofBytes] using cellsFrom_read 0 i bytes

/-- What `BufRead` answers where `bytes` is bound. -/
theorem bufRead_of_bytes (s : State) (bytes : List Byte) (i : Nat) (hb : s.buf = some (Memory.ofBytes bytes))
    (hl : s.cfgLen = bytes.length) :
    bufRead s i = match bytes[i]? with
      | some b => .ok b
      | none => .error .bufReadOutOfRange := by
  rw [bufRead, hb]
  simp only [ofBytes_read, hl]
  by_cases h : i < bytes.length
  · simp [h]
  · simp [h]

/-- A memory with a listed index has a byte there. -/
theorem read_isSome_of_mem (m : Memory) (i : Nat) (h : i ∈ m.map Prod.fst) : (m.read i).isSome = true := by
  induction m with
  | nil => simp at h
  | cons x rest ih =>
    by_cases e : i = x.1
    · simp [Memory.read, List.lookup, e]
    · have e' : (i == x.1) = false := by simpa using e
      simp only [List.map_cons, List.mem_cons] at h
      simpa [Memory.read, List.lookup, e'] using ih (h.resolve_left e)

/-- `BufRead` depends on the configuration alone (R51): equal length and binding give equal bytes. -/
theorem bufRead_congr (s t : State) (hb : t.buf = s.buf) (hl : t.cfgLen = s.cfgLen) (i : Nat) :
    bufRead t i = bufRead s i := by
  simp only [bufRead, hb, hl]

/-- `Extract` depends on the configuration alone (R104). -/
theorem extract_congr (s t : State) (hb : t.buf = s.buf) (hl : t.cfgLen = s.cfgLen) (k sel : Nat) :
    extract t k sel = extract s k sel := by
  simp only [extract, extractPair, extractField, bufRead_congr s t hb hl]

end Sys2Proof.Machine
end

