-- ==== Sys2Proof/Laws/State.lean ====
section
/-! SUPPORT. One lemma per field per state update, so that no proof unfolds a record update. -/

namespace Sys2Proof.Machine

section writeCur
variable (s : State) (c : Ctx) (v : Nat)
@[simp] theorem writeCur_lenW : (s.writeCur c v).lenW = s.lenW := rfl
@[simp] theorem writeCur_cfgValid : (s.writeCur c v).cfgValid = s.cfgValid := rfl
@[simp] theorem writeCur_cfgDsel : (s.writeCur c v).cfgDsel = s.cfgDsel := rfl
@[simp] theorem writeCur_cfgLen : (s.writeCur c v).cfgLen = s.cfgLen := rfl
@[simp] theorem writeCur_buf : (s.writeCur c v).buf = s.buf := rfl
@[simp] theorem writeCur_cur : (s.writeCur c v).cur = s.cur.set c.toNat v := rfl
@[simp] theorem writeCur_inputs : (s.writeCur c v).inputs = s.inputs := rfl
@[simp] theorem writeCur_rsp : (s.writeCur c v).rsp = s.rsp := rfl
@[simp] theorem writeCur_numCtx : (s.writeCur c v).numCtx = s.numCtx := by simp [State.numCtx]
end writeCur

section clearCur
variable (s : State)
@[simp] theorem clearCur_lenW : s.clearCur.lenW = s.lenW := rfl
@[simp] theorem clearCur_cfgValid : s.clearCur.cfgValid = s.cfgValid := rfl
@[simp] theorem clearCur_cfgDsel : s.clearCur.cfgDsel = s.cfgDsel := rfl
@[simp] theorem clearCur_cfgLen : s.clearCur.cfgLen = s.cfgLen := rfl
@[simp] theorem clearCur_buf : s.clearCur.buf = s.buf := rfl
@[simp] theorem clearCur_cur : s.clearCur.cur = List.replicate s.numCtx 0 := rfl
@[simp] theorem clearCur_inputs : s.clearCur.inputs = s.inputs := rfl
@[simp] theorem clearCur_rsp : s.clearCur.rsp = s.rsp := rfl
@[simp] theorem clearCur_numCtx : s.clearCur.numCtx = s.numCtx := by simp [State.numCtx]
end clearCur

section bind
variable (s : State) (sel : BitVec 3) (len : Nat) (bytes : List Byte)
@[simp] theorem bind_lenW : (s.bind sel len bytes).lenW = s.lenW := rfl
@[simp] theorem bind_cfgValid : (s.bind sel len bytes).cfgValid = true := rfl
@[simp] theorem bind_cfgDsel : (s.bind sel len bytes).cfgDsel = sel := rfl
@[simp] theorem bind_cfgLen : (s.bind sel len bytes).cfgLen = len := rfl
@[simp] theorem bind_buf : (s.bind sel len bytes).buf = some (Memory.ofBytes bytes) := rfl
@[simp] theorem bind_cur : (s.bind sel len bytes).cur = s.cur := rfl
@[simp] theorem bind_inputs : (s.bind sel len bytes).inputs = s.inputs := rfl
@[simp] theorem bind_rsp : (s.bind sel len bytes).rsp = s.rsp := rfl
@[simp] theorem bind_numCtx : (s.bind sel len bytes).numCtx = s.numCtx := rfl
end bind

/-- A cursor that exists reads back what was written to it (R25). -/
theorem readCur_writeCur_same (s : State) (c : Ctx) (v : Nat) (h : c.toNat < s.numCtx) :
    (s.writeCur c v).readCur c = v := by
  have h' : c.toNat < s.cur.length := h
  simp [State.readCur, List.getD, h']

/-- A write to one cursor leaves every other as it was (R25). -/
theorem readCur_writeCur_other (s : State) (c d : Ctx) (v : Nat) (h : d ≠ c) :
    (s.writeCur c v).readCur d = s.readCur d := by
  have h' : c.toNat ≠ d.toNat := fun e => h (BitVec.eq_of_toNat_eq e.symm)
  simp [State.readCur, List.getD, List.getElem?_set_ne h']

/-- After clearing, every cursor reads 0 (R92, R160). -/
theorem readCur_clearCur (s : State) (c : Ctx) : s.clearCur.readCur c = 0 := by
  simp only [State.readCur, clearCur_cur, List.getD, List.getElem?_replicate]
  split <;> rfl

/-- The cursor of a context that exists is one of the cursor file. -/
theorem readCur_mem (s : State) (c : Ctx) (h : c.toNat < s.numCtx) : s.readCur c ∈ s.cur := by
  have h' : c.toNat < s.cur.length := h
  simp [State.readCur, List.getD, h']

end Sys2Proof.Machine
end

