-- ==== Sys2Proof/Laws/Ops.lean ====
section
/-! SUPPORT. For each shared operation one lemma that says everything it can do, which proofs cite instead of unfolding it. -/

namespace Sys2Proof.Machine

theorem respond_eq (r : Response) (s : State) : respond r s = .next { s with rsp := some r } := rfl

theorem raise_eq (k : ErrKind) (v : Byte) (s : State) :
    raise k v s = .next { s with rsp := some (Response.error k v) } := rfl

theorem requireContext_ok {c : Ctx} {s : State} (h : c.toNat < s.numCtx) (go : Result) :
    requireContext c s go = go := by simp [requireContext, h]

theorem requireContext_bad {c : Ctx} {s : State} (h : s.numCtx ≤ c.toNat) (go : Result) :
    requireContext c s go = raise .badContext (c.setWidth 8) s := by
  simp [requireContext, Nat.not_lt.2 h]

theorem requireConfigured_ok {s : State} (h : s.cfgValid = true) (op : Byte) (go : Result) :
    requireConfigured op s go = go := by simp [requireConfigured, h]

theorem requireConfigured_bad {s : State} (h : s.cfgValid = false) (op : Byte) (go : Result) :
    requireConfigured op s go = raise .notConfigured op s := by simp [requireConfigured, h]

theorem requireDepth_ok {s : State} (h : s.cfgDsel.toNat ≤ 4) (go : Result) : requireDepth s go = go := by
  simp [requireDepth, h]

theorem requireDepth_bad {s : State} (h : 4 < s.cfgDsel.toNat) (go : Result) :
    requireDepth s go = .fault .illegalDepthSelect := by
  simp [requireDepth, Nat.not_le.2 h]

theorem requireSideOperands_ok {s : State} {len : Nat} {bytes : List Byte} (h : len < 2 ^ s.lenW)
    (hb : bytes.length = len) (go : Result) : requireSideOperands len bytes s go = go := by
  simp [requireSideOperands, h, hb]

/-- A well-formed CONFIG: what the port can carry and the host owes (R63, R164). -/
theorem wf_config_iff (p : Params) (dv : Byte) (len : Nat) (bytes : List Byte) :
    Instr.wf p (.config dv len bytes) = true ↔ (len < 2 ^ p.lenW ∧ bytes.length = len) := by
  simp [Instr.wf]

/-- The side operands are accepted, or refused under one of two names, exactly by well-formedness. -/
theorem requireSideOperands_cases (dv : Byte) (len : Nat) (bytes : List Byte) (s : State) (go : Result) :
    (Instr.wf s.params (.config dv len bytes) = true ∧ requireSideOperands len bytes s go = go) ∨
    (Instr.wf s.params (.config dv len bytes) = false ∧ ∃ r, requireSideOperands len bytes s go = .refused r) := by
  by_cases h : len < 2 ^ s.lenW <;> by_cases hb : bytes.length = len <;>
    simp [requireSideOperands, Instr.wf, State.params, h, hb]

end Sys2Proof.Machine
end

