-- ==== Sys2Proof/Laws/Exec.lean ====
section
/-! SUPPORT. Said once: what each command, and a step, can do when it answers a next state. -/

namespace Sys2Proof.Machine

/-- RESOLVE, in every state: one of two responses and nothing else (R82). -/
theorem execResolve_next (ct : Byte) (s : State) :
    ∃ r, execResolve ct s = .next { s with rsp := some r } ∧
      ((∃ n, lut ct.toNat = some n ∧ r = .okData n) ∨
        (lut ct.toNat = none ∧ r = Response.error .invalidColorType ct)) := by
  unfold execResolve
  split
  next n h => exact ⟨.okData n, rfl, .inl ⟨n, h, rfl⟩⟩
  next h => exact ⟨_, rfl, .inr ⟨h, rfl⟩⟩

/-- CONFIG: it ends in a next state only with the side operands the host owes, and then it fails without effect or binds. -/
theorem execConfig_cases {dv : Byte} {len : Nat} {bytes : List Byte} {s t : State}
    (h : execConfig dv len bytes s = .next t) :
    Instr.wf s.params (.config dv len bytes) = true ∧
    ((depthSel dv.toNat = none ∧ t = { s with rsp := some (Response.error .invalidBitDepth dv) }) ∨
      ∃ sel, depthSel dv.toNat = some sel ∧
        t = { (s.bind sel len bytes).clearCur with rsp := some (.okData 0) }) := by
  unfold execConfig at h
  obtain ⟨hw, e⟩ | ⟨-, r, e⟩ := requireSideOperands_cases dv len bytes s (configure dv len bytes s)
  · rw [e, configure] at h
    refine ⟨hw, ?_⟩
    split at h
    next hd => cases h; exact .inl ⟨hd, rfl⟩
    next sel hd => cases h; exact .inr ⟨sel, hd, rfl⟩
  · rw [e] at h; cases h

/-- LENGTH: NOT_CONFIGURED, or the count (R96). -/
theorem execLength_cases {s t : State} (h : execLength s = .next t) :
    (s.cfgValid = false ∧ t = { s with rsp := some (Response.error .notConfigured 3) }) ∨
    (s.cfgValid = true ∧ s.cfgDsel.toNat ≤ 4 ∧
      t = { s with rsp := some (.okData (sampleCount s.cfgLen s.cfgDsel.toNat)) }) := by
  unfold execLength requireConfigured requireDepth at h
  split at h
  next hv =>
    split at h
    next hd => cases h; exact .inr ⟨hv, hd, rfl⟩
    next => cases h
  next hv => cases h; exact .inl ⟨by simpa using hv, rfl⟩

/-- START: BAD_CONTEXT, NOT_CONFIGURED, or its cursor at 0 (R97). -/
theorem execStart_cases {c : Ctx} {s t : State} (h : execStart c s = .next t) :
    (s.numCtx ≤ c.toNat ∧ t = { s with rsp := some (Response.error .badContext (c.setWidth 8)) }) ∨
    (c.toNat < s.numCtx ∧ s.cfgValid = false ∧ t = { s with rsp := some (Response.error .notConfigured 4) }) ∨
    (c.toNat < s.numCtx ∧ s.cfgValid = true ∧ t = { s.writeCur c 0 with rsp := some (.okData 0) }) := by
  unfold execStart requireContext requireConfigured at h
  split at h
  next hc =>
    split at h
    next hv => cases h; exact .inr (.inr ⟨hc, hv, rfl⟩)
    next hv => cases h; exact .inr (.inl ⟨hc, by simpa using hv, rfl⟩)
  next hc => cases h; exact .inl ⟨Nat.le_of_not_lt hc, rfl⟩

/-- NEXT: BAD_CONTEXT, NOT_CONFIGURED, END, or the sample at its cursor, moved up by one (R100, R101). -/
theorem execNext_cases {c : Ctx} {s t : State} (h : execNext c s = .next t) :
    (s.numCtx ≤ c.toNat ∧ t = { s with rsp := some (Response.error .badContext (c.setWidth 8)) }) ∨
    (c.toNat < s.numCtx ∧ s.cfgValid = false ∧ t = { s with rsp := some (Response.error .notConfigured 5) }) ∨
    (c.toNat < s.numCtx ∧ s.cfgValid = true ∧ s.cfgDsel.toNat ≤ 4 ∧
      sampleCount s.cfgLen s.cfgDsel.toNat ≤ s.readCur c ∧ t = { s with rsp := some .endRsp }) ∨
    (c.toNat < s.numCtx ∧ s.cfgValid = true ∧ s.cfgDsel.toNat ≤ 4 ∧
      s.readCur c < sampleCount s.cfgLen s.cfgDsel.toNat ∧
      ∃ v, extract s (s.readCur c) s.cfgDsel.toNat = .ok v ∧
        t = { s.writeCur c (s.readCur c + 1) with rsp := some (.okData v) }) := by
  unfold execNext requireContext requireConfigured requireDepth at h
  split at h
  next hc =>
    split at h
    next hv =>
      split at h
      next hd =>
        split at h
        next hk => cases h; exact .inr (.inr (.inl ⟨hc, hv, hd, hk, rfl⟩))
        next hk =>
          split at h
          next => cases h
          next v hx =>
            cases h
            exact .inr (.inr (.inr ⟨hc, hv, hd, Nat.lt_of_not_le hk, v, hx, rfl⟩))
      next => cases h
    next hv => cases h; exact .inr (.inl ⟨hc, by simpa using hv, rfl⟩)
  next hc => cases h; exact .inl ⟨Nat.le_of_not_lt hc, rfl⟩

/-- A step that goes on: what the host did, and what came of it (R19). -/
theorem step_cases {s t : State} (h : step s = .next t) :
    (s.inputs = [] ∧ t = { s with rsp := none }) ∨
    (∃ c rest i, s.inputs = .command c :: rest ∧ decode c = .ok i ∧ exec i { s with inputs := rest } = .next t) ∨
    (∃ c rest e, s.inputs = .command c :: rest ∧ decode c = .error e ∧
      t = { s with inputs := rest, rsp := some (Response.error .illegalCommand ((opField c.word).setWidth 8)) }) ∨
    (∃ o rest, s.inputs = .reset o :: rest ∧
      t = { s.clearCur with
        cfgValid := false, cfgDsel := 0, cfgLen := 0, buf := none, inputs := rest, rsp := none }) ∨
    (∃ x rest, s.inputs = x :: rest ∧ ((∃ a v, x = .writeBuffer a v) ∨ x = .withdrawBuffer) ∧
      t = { s with inputs := rest, rsp := none }) := by
  unfold step fetchInput at h
  cases hi : s.inputs with
  | nil =>
    simp only [hi] at h
    cases h
    exact .inl ⟨rfl, by simp [hi]⟩
  | cons x rest =>
    simp only [hi] at h
    cases x with
    | command c =>
      simp only [runCommand] at h
      cases hd : decode c with
      | ok i => rw [hd] at h; exact .inr (.inl ⟨c, rest, i, rfl, hd, h⟩)
      | error e =>
        rw [hd] at h
        cases h
        exact .inr (.inr (.inl ⟨c, rest, e, rfl, hd, rfl⟩))
    | reset o => cases h; exact .inr (.inr (.inr (.inl ⟨o, rest, rfl, rfl⟩)))
    | writeBuffer a v =>
      refine .inr (.inr (.inr (.inr ⟨_, rest, rfl, .inl ⟨a, v, rfl⟩, ?_⟩)))
      simp only [hostWrite, idle] at h
      split at h
      · split at h
        · cases h; rfl
        · cases h
      · cases h; rfl
    | withdrawBuffer =>
      refine .inr (.inr (.inr (.inr ⟨_, rest, rfl, .inr rfl, ?_⟩)))
      simp only [hostWithdraw, idle] at h
      split at h
      · cases h; rfl
      · cases h
    | overlap a b => cases h

end Sys2Proof.Machine
end

