-- ==== Sys2Proof/Laws/Fields.lean ====
section
/-! SUPPORT. The fields of an encoded word, and what it is for a row to select a word (spec 30_encoding.md R61, R65). -/

namespace Sys2Proof

@[simp] theorem opField_packWord (imm : Byte) (ctx : Ctx) (op : BitVec 4) : opField (packWord imm ctx op) = op := by
  ext i hi
  have h1 : i < 8 := by omega
  have h2 : i < 32 := by omega
  simp [opField, packWord, h1, hi, h2]

@[simp] theorem ctxField_packWord (imm : Byte) (ctx : Ctx) (op : BitVec 4) : ctxField (packWord imm ctx op) = ctx := by
  ext i hi
  have h1 : 4 + i < 8 := by omega
  have h2 : 4 + i < 32 := by omega
  simp [ctxField, packWord, h1, h2, BitVec.getLsbD_eq_getElem hi]

@[simp] theorem immField_packWord (imm : Byte) (ctx : Ctx) (op : BitVec 4) : immField (packWord imm ctx op) = imm := by
  ext i hi
  have h1 : 8 + i < 32 := by omega
  have h3 : ¬ 8 + i < 4 := by omega
  have h4 : 4 ≤ 8 + i - 4 := by omega
  simp [immField, packWord, h1, BitVec.getLsbD_eq_getElem hi, BitVec.getLsbD_of_ge ctx _ h4,
    BitVec.getLsbD_of_ge op (8 + i) (by omega)]

@[simp] theorem rsvField_packWord (imm : Byte) (ctx : Ctx) (op : BitVec 4) : rsvField (packWord imm ctx op) = 0 := by
  ext i hi
  simp [rsvField, packWord, BitVec.getLsbD_of_ge imm (16 + i - 8) (by omega),
    BitVec.getLsbD_of_ge ctx (16 + i - 4) (by omega), BitVec.getLsbD_of_ge op (16 + i) (by omega)]

/-- A word is its four fields (R61). -/
theorem word_of_fields (w : Word) (h : rsvField w = 0) : w = packWord (immField w) (ctxField w) (opField w) := by
  ext i hi
  have hr : ∀ j, 16 ≤ j → j < 32 → w.getLsbD j = false := by
    intro j h1 h2
    have := congrArg (fun v => BitVec.getLsbD v (j - 16)) h
    simp only [rsvField, BitVec.getLsbD_extractLsb'] at this
    have e : 16 + (j - 16) = j := by omega
    rw [e] at this
    simpa [show j - 16 < 16 by omega] using this
  by_cases h4 : i < 4
  · have h8 : i < 8 := by omega
    simp [packWord, opField, h4, h8, hi]
  · by_cases h8 : i < 8
    · have e : 4 + (i - 4) = i := by omega
      simp [packWord, opField, ctxField, h4, h8, hi, e, show i - 4 < 4 by omega]
    · by_cases h16 : i < 16
      · have e : 8 + (i - 8) = i := by omega
        simp [packWord, opField, ctxField, immField, h4, h8, hi, e, show ¬ i - 4 < 4 by omega, show i - 8 < 8 by omega]
      · have := hr i (by omega) hi
        rw [BitVec.getLsbD_eq_getElem hi] at this
        simp [packWord, opField, ctxField, immField, h4, h8, hi, this, show ¬ i - 4 < 4 by omega,
          show ¬ i - 8 < 8 by omega]

end Sys2Proof
end

