-- ==== Sys2Proof/Laws/PerInstr.lean ====
section
/-! SUPPORT. Said of each command as syntax: where its operands stand in its word (spec 30_encoding.md R61, R64, R76). -/

namespace Sys2Proof

/-- The `OP` number of a command (R64). -/
def opNumber : Instr → BitVec 4
  | .resolve _ => 0x1
  | .config _ _ _ => 0x2
  | .length => 0x3
  | .start _ => 0x4
  | .next _ => 0x5

/-- The `IMM` operand of a command, 0 where it must be (R61). -/
def immOperand : Instr → Byte
  | .resolve ct => ct
  | .config dv _ _ => dv
  | .length => 0
  | .start _ => 0
  | .next _ => 0

/-- The `CTX` operand of a command, 0 where it must be (R61). -/
def ctxOperand : Instr → Ctx
  | .resolve _ => 0
  | .config _ _ _ => 0
  | .length => 0
  | .start c => c
  | .next c => c

/-- Each field of the command's word is its own operand, and the reserved field is 0. -/
def Laws.FieldPlacement.Statement (i : Instr) : Prop :=
  opField (encodeWord i) = opNumber i ∧ immField (encodeWord i) = immOperand i ∧
    ctxField (encodeWord i) = ctxOperand i ∧ rsvField (encodeWord i) = 0

theorem Laws.FieldPlacement.resolve (ct : Byte) : Laws.FieldPlacement.Statement (.resolve ct) := by
  simp [Laws.FieldPlacement.Statement, encodeWord, opNumber, immOperand, ctxOperand]

theorem Laws.FieldPlacement.config (dv : Byte) (len : Nat) (bytes : List Byte) :
    Laws.FieldPlacement.Statement (.config dv len bytes) := by
  simp [Laws.FieldPlacement.Statement, encodeWord, opNumber, immOperand, ctxOperand]

theorem Laws.FieldPlacement.length : Laws.FieldPlacement.Statement .length := by
  simp [Laws.FieldPlacement.Statement, encodeWord, opNumber, immOperand, ctxOperand]

theorem Laws.FieldPlacement.start (c : Ctx) : Laws.FieldPlacement.Statement (.start c) := by
  simp [Laws.FieldPlacement.Statement, encodeWord, opNumber, immOperand, ctxOperand]

theorem Laws.FieldPlacement.next (c : Ctx) : Laws.FieldPlacement.Statement (.next c) := by
  simp [Laws.FieldPlacement.Statement, encodeWord, opNumber, immOperand, ctxOperand]

end Sys2Proof
end

