-- ==== Sys2Proof/Tests/Slice0.lean ====
section
/-! SUPPORT. Tests of single steps, their expected results from spec 95_test_vectors.md or worked from the rule named; the ill-formed
terms WellFormed refuses; and for every statement with hypotheses a state and operands that meet them. -/

namespace Sys2Proof.Tests

open Sys2Proof Sys2Proof.Machine

/-- A configured block with `LEN_W = 8` and two contexts. -/
def configured (sel : BitVec 3) (bytes : List Byte) (c0 c1 : Nat) : State :=
  { lenW := 8, cfgValid := true, cfgDsel := sel, cfgLen := bytes.length, buf := some (Memory.ofBytes bytes),
    cur := [c0, c1], inputs := [], rsp := none }

/-- The response a result delivers. -/
def rspOf : Result → Option Response
  | .next t => t.rsp
  | .fault _ => none
  | .refused _ => none

/-- The cursors a result leaves. -/
def curOf : Result → Option (List Nat)
  | .next t => some t.cur
  | .fault _ => none
  | .refused _ => none

/-- The state `s` with the host presenting word `w` and side operands. -/
def present (s : State) (w : Word) (bytes : List Byte) : State :=
  { s with inputs := [.command ⟨w, bytes.length, bytes⟩] }

/-! ### WellFormed: an ill-formed term for each check -/

theorem test_wf_len_too_wide : Instr.wf ⟨1, 1⟩ (.config 8 2 [1, 2]) = false := by decide
theorem test_wf_length_disagrees : Instr.wf ⟨8, 2⟩ (.config 8 2 [1]) = false := by decide
theorem test_wf_largest_len : Instr.wf ⟨2, 1⟩ (.config 8 3 [1, 2, 3]) = true := by decide

/-! ### Decode: words of 95_test_vectors.md section 2, and the table's numbering -/

theorem test_decode_resolve : decode ⟨0x00006401, 0, []⟩ = .ok (.resolve 100) := by decide
theorem test_decode_config : decode ⟨0x00001002, 1, [0xAB]⟩ = .ok (.config 16 1 [0xAB]) := by decide
theorem test_decode_length : decode ⟨0x00000003, 5, [7]⟩ = .ok .length := by decide
theorem test_decode_start : decode ⟨0x000000F4, 0, []⟩ = .ok (.start 15) := by decide
theorem test_decode_next : decode ⟨0x00000095, 0, []⟩ = .ok (.next 9) := by decide
theorem test_decode_reserved_op : decode ⟨0x00000006, 0, []⟩ = .error (.reservedOp 6) := by decide
theorem test_decode_ctx_set : decode ⟨0x00000013, 0, []⟩ = .error (.mustBeZero 3) := by decide
theorem test_decode_rsv_set : decode ⟨0x80000005, 0, []⟩ = .error (.mustBeZero 5) := by decide
theorem test_decode_table_word : decodeTableWord 32 0x00000015 = some (.next 1) := by decide
theorem test_encode_config : encodeWord (.config 16 0 []) = 0x00001002 := by decide
theorem test_present_minus_254 : presentImm (-254) = none := by decide
theorem test_present_264 : presentImm 264 = none := by decide

/-! ### One step of each command -/

theorem test_resolve_6 : rspOf (step (present State.reset 0x00000601 [])) = some (.okData 4) := by decide
theorem test_resolve_5 : rspOf (step (present State.reset 0x00000501 [])) = some (.error .invalidColorType 5) := by decide
theorem test_config_4 : step (present State.reset 0x00000402 [0xAB]) =
    .next { configured 2 [0xAB] 0 0 with rsp := some (.okData 0) } := by rfl
theorem test_config_3_keeps : step (present (configured 3 [0x11, 0x22] 1 0) 0x00000302 [0x11]) =
    .next { configured 3 [0x11, 0x22] 1 0 with rsp := some (.error .invalidBitDepth 3) } := by rfl
theorem test_length_odd_16 : rspOf (exec .length (configured 4 [1, 2, 3] 0 0)) = some (.okData 1) := by decide
theorem test_length_5_depth_2 : rspOf (exec .length (configured 1 [0, 0, 0, 0, 0] 0 0)) = some (.okData 20) := by decide
theorem test_start_0 : curOf (exec (.start 0) (configured 1 [0xC9] 2 1)) = some [0, 1] := by decide
theorem test_start_15 : rspOf (exec (.start 15) (configured 1 [0xC9] 2 1)) = some (.error .badContext 15) := by decide
theorem test_next_sample_5_depth_2 : rspOf (exec (.next 0) (configured 1 [0x1B, 0xE4] 5 0)) = some (.okData 2) := by decide
theorem test_next_depth_16 : rspOf (exec (.next 1) (configured 4 [0x12, 0x34, 0x56, 0x78, 0x9A] 0 1)) =
    some (.okData 22136) := by decide

/-! ### Other steps -/

theorem test_illegal_before_bad_context : rspOf (step (present State.reset 0x00000195 [])) =
    some (.error .illegalCommand 5) := by decide
theorem test_bad_context_before_not_configured : rspOf (step (present State.reset 0x00000025 [])) =
    some (.error .badContext 2) := by decide
theorem test_next_end : curOf (exec (.next 0) (configured 4 [0xAB] 0 0)) = some [0, 0] := by decide
theorem test_reset_step : step { configured 4 [1, 2, 3] 1 0 with inputs := [.reset none] } = .next State.reset := by rfl
theorem test_fetch_word_runs : rspOf (step (State.reset.withFetchWord 32 0x00000201)) = some (.okData 3) := by decide
theorem test_pack_end : Response.pack .endRsp = 1 := by decide
theorem test_pack_error : Response.pack (.error .badContext 9) = 0x916 := by decide

/-! ### Witnesses: the hypotheses of each statement are met together -/

theorem witness_EncodeOfDecode : decode ⟨0x00000402, 1, [0xAB]⟩ = .ok (.config 4 1 [0xAB]) ∧
    isConfig (.config 4 1 [0xAB]) = true := by decide

theorem witness_AtMostOneRowMatches : ∃ r ∈ rows, r.selects 0x000000F5 = true := by decide

theorem witness_RejectionIsNamed_reserved : decode ⟨0x0000000F, 0, []⟩ = .error (.reservedOp 15) ∧
    6 ≤ (opField 0x0000000F).toNat := by decide

theorem witness_RejectionIsNamed_mustBeZero : decode ⟨0x00000104, 0, []⟩ = .error (.mustBeZero 4) ∧
    ¬ (opField 0x00000104 = 0 ∨ 6 ≤ (opField 0x00000104).toNat) := by decide

theorem witness_NoOperandIsTruncated : presentImm 255 = some 255 ∧ presentImm 0 = some 0 ∧ presentImm 256 = none ∧
    presentImm (-1) = none := by decide

theorem witness_StepRunsDecodedCommand : (present State.reset 0x00000003 []).inputs = .command ⟨0x00000003, 0, []⟩ :: [] ∧
    decode ⟨0x00000003, 0, []⟩ = .ok .length := by decide

theorem witness_IssuedCommandRuns :
    ({ State.reset with inputs := [.command (encode (.next 1))] } : State).inputs = .command (encode (.next 1)) :: [] := rfl

theorem witness_IllegalCommandRaised_op : opField 0x00000000 = 0 ∧ 6 ≤ (opField 0x00000006).toNat := by decide

theorem witness_IllegalCommandRaised_fields : rsvField 0x00010001 ≠ 0 ∧
    (opField 0x00000412 = 2 ∧ ctxField 0x00000412 ≠ 0) ∧ (opField 0x00000103 = 3 ∧ immField 0x00000103 ≠ 0) := by decide

theorem witness_StepTakesOneInput : ∃ t, step (present State.reset 0x00000201 []) = .next t := ⟨_, rfl⟩

theorem witness_ParametersConstant : ∃ t, step (present State.reset 0x00000402 [0xAB]) = .next t := ⟨_, rfl⟩

theorem witness_IdleLosesNothing : (configured 3 [1] 1 0).inputs = [] := rfl

theorem witness_BrokenHostDutiesRefused_write :
    ({ configured 3 [1] 0 0 with inputs := [.writeBuffer 0 2] } : State).inputs = .writeBuffer 0 2 :: [] ∧
    bufRead ({ configured 3 [1] 0 0 with inputs := [.writeBuffer 0 2] } : State) 0 = .ok 1 ∧ (1 : Byte) ≠ 2 :=
  ⟨rfl, rfl, by decide⟩

theorem witness_BrokenHostDutiesRefused_withdraw :
    ({ configured 3 [1] 0 0 with inputs := [.withdrawBuffer] } : State).inputs = .withdrawBuffer :: [] ∧
    (configured 3 [1] 0 0).buf = some [(0, 1)] := ⟨rfl, rfl⟩

theorem witness_BrokenHostDutiesRefused_overlap :
    ({ State.reset with inputs := [.overlap (encode .length) (encode (.next 0))] } : State).inputs =
      .overlap (encode .length) (encode (.next 0)) :: [] := rfl

theorem witness_ConfigSucceeds : (4 : BitVec 3).toNat ≤ 4 ∧ (16 : Byte).toNat = 1 <<< (4 : BitVec 3).toNat ∧
    3 < 2 ^ State.reset.lenW ∧ ([1, 2, 3] : List Byte).length = 3 := by decide

theorem witness_ConfigBindsPresentedBytes : depthSel (1 : Byte).toNat = some 0 ∧
    (∃ t, exec (.config 1 2 [5, 6]) State.reset = .next t) ∧ ([5, 6] : List Byte)[1]? = some 6 ∧ 2 ≤ 2 :=
  ⟨rfl, ⟨_, rfl⟩, rfl, Nat.le_refl 2⟩

theorem witness_ConfigInvalidDepth : (32 : Byte) ≠ 1 ∧ (32 : Byte) ≠ 2 ∧ (32 : Byte) ≠ 4 ∧ (32 : Byte) ≠ 8 ∧
    (32 : Byte) ≠ 16 ∧ 0 < 2 ^ State.reset.lenW ∧ ([] : List Byte).length = 0 := by decide

theorem witness_ConfigRefusedExactly : exec (.config 8 2 [1]) State.reset = .refused .lengthMismatch ∧
    exec (.config 8 256 []) State.reset = .refused .lenNotPresentable := ⟨rfl, rfl⟩

theorem witness_NextAfterConfigIsSampleZero : depthSel (4 : Byte).toNat = some 2 ∧
    (∃ t, exec (.config 4 1 [0xAB]) State.reset = .next t) ∧ (1 : Ctx).toNat < State.reset.numCtx ∧
    unpack (2 : BitVec 3).toNat [0xAB] = 10 :: [11] := ⟨rfl, ⟨_, rfl⟩, by decide, by decide⟩

theorem witness_SampleCountValue : 255 < 2 ^ (⟨8, 2⟩ : Params).lenW ∧ 4 ≤ 4 := by decide

theorem witness_LengthAnswersCount : (configured 4 [1, 2, 3] 0 0).cfgValid = true ∧
    (configured 4 [1, 2, 3] 0 0).DepthLegal := by decide

theorem witness_StartClearsCursor : (configured 1 [0xC9] 2 1).cfgValid = true ∧
    (1 : Ctx).toNat < (configured 1 [0xC9] 2 1).numCtx := by decide

theorem witness_NextProducesSample : (configured 4 [1, 2, 3] 0 1).Inv ∧ (configured 4 [1, 2, 3] 0 1).cfgValid = true ∧
    (0 : Ctx).toNat < (configured 4 [1, 2, 3] 0 1).numCtx ∧
    (configured 4 [1, 2, 3] 0 1).readCur 0 < sampleCount 3 4 := by decide

theorem witness_NextAtEnd : (configured 4 [1, 2, 3] 0 1).cfgValid = true ∧ (configured 4 [1, 2, 3] 0 1).DepthLegal ∧
    (1 : Ctx).toNat < (configured 4 [1, 2, 3] 0 1).numCtx ∧
    sampleCount (configured 4 [1, 2, 3] 0 1).cfgLen (configured 4 [1, 2, 3] 0 1).cfgDsel.toNat ≤
      (configured 4 [1, 2, 3] 0 1).readCur 1 := by decide

theorem witness_ReadsStayInRange : 4 ≤ 4 ∧ 0 < sampleCount 3 4 ∧ 3 ≤ 4 ∧ 2 < sampleCount 3 3 := by decide

theorem witness_SampleIsByteLane : 0 < 4 ∧ (configured 0 [0xB2, 0x0F] 0 0).Holds 0 [0xB2, 0x0F] ∧
    ([0xB2, 0x0F] : List Byte)[15 / (8 / 2 ^ 0)]? = some 0x0F := by decide

theorem witness_SampleIsBigEndianPair : (configured 4 [1, 2, 3, 4] 0 0).Holds 4 [1, 2, 3, 4] ∧
    ([1, 2, 3, 4] : List Byte)[2 * 1]? = some 3 ∧ ([1, 2, 3, 4] : List Byte)[2 * 1 + 1]? = some 4 := by decide

theorem witness_SampleRange : (configured 4 [0xFF, 0xFF] 0 0).cfgDsel.toNat ≤ 4 ∧
    rspOf (exec (.next 0) (configured 4 [0xFF, 0xFF] 0 0)) = some (.okData 65535) := by decide

theorem witness_OddTrailingByteDropped : ([1, 2] : List Byte).length % 2 = 0 ∧
    (configured 4 [1, 2, 3] 0 0).Holds 4 ([1, 2] ++ [3]) ∧
    configured 4 [1, 2, 9] 0 0 = { configured 4 [1, 2, 3] 0 0 with buf := some (Memory.ofBytes ([1, 2] ++ [9])) } := by
  decide

theorem witness_OddTrailingByteDropped_next : (∃ t, exec (.next 0) (configured 4 [1, 2, 3] 0 0) = .next t) ∧
    ∃ t, exec .length (configured 4 [1, 2, 3] 0 0) = .next t := ⟨⟨_, rfl⟩, ⟨_, rfl⟩⟩

theorem witness_OddTrailingByteDropped_answers : (0 : Ctx).toNat < (configured 4 [1, 2, 3] 0 1).numCtx ∧
    rspOf (exec (.next 0) (configured 4 [1, 2, 3] 0 1)) = some (.okData 258) ∧
    rspOf (exec (.next 1) (configured 4 [1, 2, 3] 0 1)) = some .endRsp := by decide

theorem witness_ExtractIsSourceSequence : 4 ≤ 4 ∧ (configured 4 [1, 2, 3] 0 0).Holds 4 [1, 2, 3] := by decide

theorem witness_FullTraversal : 2 ≤ 4 ∧ (configured 2 [0xAB] 1 0).Holds 2 [0xAB] ∧
    (1 : Ctx).toNat < (configured 2 [0xAB] 1 0).numCtx := by decide

theorem witness_FullTraversalFromConfig : depthSel (16 : Byte).toNat = some 4 ∧ 3 < 2 ^ State.reset.lenW ∧
    ([1, 2, 3] : List Byte).length = 3 ∧ (0 : Ctx).toNat < State.reset.numCtx := by decide

theorem witness_TraversalsIdentical : (configured 2 [0xAB] 1 0).cfgValid = true ∧
    (configured 2 [0xAB] 1 0).cfgDsel = (configured 2 [0xAB] 0 2).cfgDsel ∧
    (configured 2 [0xAB] 1 0).cfgLen = (configured 2 [0xAB] 0 2).cfgLen ∧
    (configured 2 [0xAB] 1 0).buf = (configured 2 [0xAB] 0 2).buf ∧
    (0 : Ctx).toNat < (configured 2 [0xAB] 1 0).numCtx ∧ (1 : Ctx).toNat < (configured 2 [0xAB] 0 2).numCtx ∧
    (runAll (.start 0 :: List.replicate 1 (.next 0)) (configured 2 [0xAB] 1 0)).isSome = true ∧
    (runAll (.start 1 :: List.replicate 1 (.next 1)) (configured 2 [0xAB] 0 2)).isSome = true := by decide

theorem witness_ContextsIndependent : (configured 2 [0xAB] 1 0).Inv ∧
    ∀ i ∈ [Instr.next 0, .next 1, .resolve 7, .start 1, .length], isConfig i = false := by decide

theorem witness_BadContextFirst : State.reset.numCtx ≤ (2 : Ctx).toNat ∧
    (State.resetWith ⟨8, 16⟩).numCtx = 16 ∧
    rspOf (exec (.next 15) (State.resetWith ⟨8, 16⟩)) = some (.error .notConfigured 5) := by decide

theorem witness_NotConfiguredRaised : State.reset.cfgValid = false ∧ (1 : Ctx).toNat < State.reset.numCtx ∧
    rspOf (exec .length State.reset) = some (.error .notConfigured 3) := by decide

theorem witness_ErrorsWriteNothing : rspOf (runCommand ⟨0x00000101, 0, []⟩ (configured 3 [1] 1 0)) =
    some (.error .invalidColorType 1) := by decide

theorem witness_NoErrorMidTraversal : (configured 3 [1] 1 0).Inv ∧ (configured 3 [1] 1 0).cfgValid = true ∧
    (0 : Ctx).toNat < (configured 3 [1] 1 0).numCtx := by decide

theorem witness_EveryCommandResponds : (present State.reset 0x00000402 [0xAB]).Inv ∧
    (present State.reset 0x00000402 [0xAB]).inputs = .command ⟨0x00000402, 1, [0xAB]⟩ :: [] ∧
    decode ⟨0x00000402, 1, [0xAB]⟩ = .ok (.config 4 1 [0xAB]) ∧
    Instr.wf (present State.reset 0x00000402 [0xAB]).params (.config 4 1 [0xAB]) = true := by decide

theorem witness_EveryCommandResponds_illegal : (present State.reset 0x00000000 []).Inv ∧
    (present State.reset 0x00000000 []).inputs = .command ⟨0x00000000, 0, []⟩ :: [] ∧
    decode ⟨0x00000000, 0, []⟩ = .error (.reservedOp 0) := by decide

theorem witness_PackedResponseFields : (Response.okData 65535).data < 2 ^ 16 := by decide

theorem witness_ResetValues : ({ configured 4 [1, 2] 1 0 with inputs := [.reset (some (encode .length))] } : State).inputs =
    .reset (some (encode .length)) :: [] := rfl

theorem witness_ResetHidesAbandonedCommand : ∃ t, runCommand (encode (.next 0)) (configured 3 [1] 0 0) = .next t := ⟨_, rfl⟩

theorem witness_AfterResetNotConfigured : (⟨1, 16⟩ : Params).Legal ∧ (15 : Ctx).toNat < (⟨1, 16⟩ : Params).numCtx := by decide

theorem witness_FrameOfResolveAndLength : (∃ t, exec (.resolve 1) (configured 3 [1] 1 0) = .next t) ∧
    ∃ t, exec .length (configured 3 [1] 1 0) = .next t := ⟨⟨_, rfl⟩, ⟨_, rfl⟩⟩

theorem witness_FrameOfStartAndNext : (∃ t, exec (.start 0) (configured 3 [1] 1 0) = .next t) ∧
    (∃ t, exec (.next 1) (configured 3 [1] 1 0) = .next t) ∧ (1 : Ctx) ≠ 0 := ⟨⟨_, rfl⟩, ⟨_, rfl⟩, by decide⟩

theorem witness_FrameOfConfig : (∃ t, exec (.config 3 1 [7]) (configured 3 [1] 1 0) = .next t) ∧
    depthSel (3 : Byte).toNat = none ∧ ∃ t, exec (.config 8 1 [7]) (configured 3 [1] 1 0) = .next t :=
  ⟨⟨_, rfl⟩, rfl, ⟨_, rfl⟩⟩

theorem witness_CfgValidWriters : (∃ t, step (present State.reset 0x00000402 [0xAB]) = .next t ∧ t.cfgValid = true) ∧
    ∃ t, step { configured 3 [1] 1 0 with inputs := [.reset none] } = .next t ∧ t.cfgValid = false :=
  ⟨⟨_, rfl, rfl⟩, ⟨_, rfl, rfl⟩⟩

theorem witness_CursorWriters_next : ∃ t, step (present (configured 3 [1] 0 0) 0x00000005 []) = .next t ∧
    t.readCur 0 ≠ (present (configured 3 [1] 0 0) 0x00000005 []).readCur 0 := ⟨_, rfl, by decide⟩

theorem witness_CursorWriters_start : ∃ t, step (present (configured 3 [1] 0 1) 0x00000014 []) = .next t ∧
    t.readCur 1 ≠ (present (configured 3 [1] 0 1) 0x00000014 []).readCur 1 := ⟨_, rfl, by decide⟩

theorem witness_InvariantAtReset : Params.ofVectors.Legal := by decide

theorem witness_InvariantKept : (present (configured 3 [1] 0 1) 0x00000005 []).Inv ∧
    (rspOf (step (present (configured 3 [1] 0 1) 0x00000005 []))).isSome = true := by decide

theorem witness_NoFaultFromInvariant : (configured 0 [0xB2] 8 0).Inv := by decide

theorem witness_DepthSelectStaysLegal : (present (configured 4 [1, 2] 0 0) 0x00000402 [9]).DepthLegal ∧
    (rspOf (step (present (configured 4 [1, 2] 0 0) 0x00000402 [9]))).isSome = true := by decide

theorem witness_CursorNeverWraps : (present (configured 4 [1, 2] 0 1) 0x00000005 []).CursorsInRange ∧
    curOf (step (present (configured 4 [1, 2] 0 1) 0x00000005 [])) = some [1, 1] ∧
    (configured 4 [1, 2] 0 1).Inv ∧ 1 ∈ (configured 4 [1, 2] 0 1).cur := by decide

end Sys2Proof.Tests
end

section
/-! The step by what the host does next, what a command leaves of the parameters and of the host's list, and the statements
about the scope of the model (spec 00_scope.md R8, R11, R19). -/

namespace Sys2Proof.Machine

/-! ### One step, by what the host does next -/

theorem fetchInput_cons {s : State} {x : HostInput} {rest : List HostInput} (h : s.inputs = x :: rest) :
    fetchInput s = some (x, { s with inputs := rest }) := by
  simp [fetchInput, h]

theorem step_command {s : State} {c : Command} {rest : List HostInput} (h : s.inputs = .command c :: rest) :
    step s = runCommand c { s with inputs := rest } := by
  simp [step, fetchInput_cons h]

theorem step_writeBuffer {s : State} {a : Nat} {v : Byte} {rest : List HostInput}
    (h : s.inputs = .writeBuffer a v :: rest) : step s = hostWrite a v { s with inputs := rest } := by
  simp [step, fetchInput_cons h]

theorem step_withdrawBuffer {s : State} {rest : List HostInput} (h : s.inputs = .withdrawBuffer :: rest) :
    step s = hostWithdraw { s with inputs := rest } := by
  simp [step, fetchInput_cons h]

theorem step_overlap {s : State} {a b : Command} {rest : List HostInput} (h : s.inputs = .overlap a b :: rest) :
    step s = .refused .overlappingCommands := by
  simp [step, fetchInput_cons h, hostOverlap]

theorem runCommand_of_decode {c : Command} {i : Instr} (h : decode c = .ok i) (s : State) :
    runCommand c s = exec i s := by
  simp [runCommand, h]

/-! ### The host's own acts on a bound buffer (R163) -/

theorem hostWrite_changed {s : State} {a : Nat} {v b : Byte} (hread : bufRead s a = .ok b) (hne : b ≠ v) :
    hostWrite a v s = .refused .bufferChangedWhileBound := by
  simp [hostWrite, hread, hne]

theorem hostWithdraw_bound {s : State} {m : Memory} (h : s.buf = some m) :
    hostWithdraw s = .refused .bufferWithdrawnWhileBound := by
  simp [hostWithdraw, h]

/-! ### What no command writes -/

@[simp] theorem writeCur_params (s : State) (c : Ctx) (v : Nat) : (s.writeCur c v).params = s.params := by
  simp [State.params]

@[simp] theorem clearCur_params (s : State) : s.clearCur.params = s.params := by
  simp [State.params]

@[simp] theorem bind_params (s : State) (sel : BitVec 3) (len : Nat) (bytes : List Byte) :
    (s.bind sel len bytes).params = s.params := rfl

/-- A command that goes on has written neither the parameters (R8, R11) nor the list of what the host does (log 2). -/
theorem exec_keeps_params_inputs {i : Instr} {s t : State} (h : exec i s = .next t) :
    t.params = s.params ∧ t.inputs = s.inputs := by
  cases i with
  | resolve ct =>
    obtain ⟨r, e, -⟩ := execResolve_next ct s
    cases e.symm.trans h
    exact ⟨rfl, rfl⟩
  | config dv len bytes =>
    obtain ⟨-, ⟨-, rfl⟩ | ⟨sel, -, rfl⟩⟩ := execConfig_cases h
    · exact ⟨rfl, rfl⟩
    · exact ⟨(clearCur_params _).trans (bind_params s sel len bytes), rfl⟩
  | length =>
    obtain ⟨-, rfl⟩ | ⟨-, -, rfl⟩ := execLength_cases h
    · exact ⟨rfl, rfl⟩
    · exact ⟨rfl, rfl⟩
  | start c =>
    obtain ⟨-, rfl⟩ | ⟨-, -, rfl⟩ | ⟨-, -, rfl⟩ := execStart_cases h
    · exact ⟨rfl, rfl⟩
    · exact ⟨rfl, rfl⟩
    · exact ⟨writeCur_params s c 0, rfl⟩
  | next c =>
    obtain ⟨-, rfl⟩ | ⟨-, -, rfl⟩ | ⟨-, -, -, -, rfl⟩ | ⟨-, -, -, -, v, -, rfl⟩ := execNext_cases h
    · exact ⟨rfl, rfl⟩
    · exact ⟨rfl, rfl⟩
    · exact ⟨rfl, rfl⟩
    · exact ⟨writeCur_params s c (s.readCur c + 1), rfl⟩

/-! ### CONFIG refuses in its side operands alone -/

/-- Past the side operands CONFIG always goes on: it binds, or it raises INVALID_BIT_DEPTH (R92, R133). -/
theorem configure_goes_on (dv : Byte) (len : Nat) (bytes : List Byte) (s : State) :
    ∃ t, configure dv len bytes s = .next t := by
  unfold configure
  split
  · exact ⟨_, raise_eq ..⟩
  · exact ⟨_, respond_eq ..⟩

/-- CONFIG by well-formedness: it goes on, or it is refused under one of two names (R19, R63, R164). -/
theorem exec_config_next_or_refused (dv : Byte) (len : Nat) (bytes : List Byte) (s : State) :
    (Instr.wf s.params (.config dv len bytes) = true ∧ ∃ t, exec (.config dv len bytes) s = .next t) ∨
    (Instr.wf s.params (.config dv len bytes) = false ∧ ∃ r, exec (.config dv len bytes) s = .refused r) := by
  obtain ⟨hwf, e⟩ | ⟨hwf, r, e⟩ := requireSideOperands_cases dv len bytes s (configure dv len bytes s)
  · obtain ⟨t, ht⟩ := configure_goes_on dv len bytes s
    exact .inl ⟨hwf, t, e.trans ht⟩
  · exact .inr ⟨hwf, r, e⟩

/-! ### The statements -/

/-- Settles O12: by the cases of a step; only a command's own meaning could write a parameter, and reset and CONFIG put as many
cursors back as there were. -/
theorem parametersConstant : Obligations.ParametersConstant := by
  intro s t h
  obtain ⟨-, rfl⟩ | ⟨c, rest, i, -, -, hexec⟩ | ⟨c, rest, e, -, -, rfl⟩ | ⟨o, rest, -, rfl⟩ | ⟨x, rest, -, -, rfl⟩ :=
    step_cases h
  · rfl
  · exact (exec_keeps_params_inputs hexec).1
  · rfl
  · exact clearCur_params s
  · rfl

/-- Settles O8: a step takes the command at the head of the list, and running it is running what it decodes to. -/
theorem stepRunsDecodedCommand : Obligations.StepRunsDecodedCommand := by
  refine ⟨fun s c rest h => step_command h, fun s c rest i h hdec => ?_⟩
  rw [step_command h, runCommand_of_decode hdec]

/-- Settles O14: one clause for each act; what is bound does not depend on the list the act is taken from. -/
theorem brokenHostDutiesRefused : Obligations.BrokenHostDutiesRefused := by
  refine ⟨?_, ?_, ?_⟩
  · intro s rest a v b h hread hne
    have hread' : bufRead { s with inputs := rest } a = .ok b := (bufRead_congr s _ rfl rfl a).trans hread
    rw [step_writeBuffer h, hostWrite_changed hread' hne]
  · intro s rest m h hbuf
    rw [step_withdrawBuffer h]
    exact hostWithdraw_bound hbuf
  · intro s rest a b h
    exact step_overlap h

/-- Settles O20: well-formed side operands lead to `configure`, which always goes on; others are refused at once. -/
theorem configRefusedExactly : Obligations.ConfigRefusedExactly := by
  intro s dv len bytes
  obtain ⟨hwf, t, ht⟩ | ⟨hwf, r, hr⟩ := exec_config_next_or_refused dv len bytes s
  · simp [ht, hwf]
  · simp [hr, hwf]

end Sys2Proof.Machine
end

section
/-! What one step can write of the block, said once, and the statements about frames, access and invariants that follow from it
(spec 10_state.md R22 to R35). -/

namespace Sys2Proof.Machine

/-! ### What one step can write -/

/-- The block `u` that a step from `s` can leave, up to what the host does next and the response port: as it was, at its reset
values, or with what CONFIG, START or NEXT write. -/
inductive StepWrites (s : State) : State → Prop
  | nothing : StepWrites s s
  | reset (hnext : s.resetNext) : StepWrites s (State.resetWith s.params)
  | config {dv : Byte} {len : Nat} {bytes : List Byte} {sel : BitVec 3}
      (hnext : s.commandNext (.config dv len bytes)) (hwf : Instr.wf s.params (.config dv len bytes) = true)
      (hsel : depthSel dv.toNat = some sel) : StepWrites s (s.bind sel len bytes).clearCur
  | start {c : Ctx} (hnext : s.commandNext (.start c)) (hc : c.toNat < s.numCtx) (hv : s.cfgValid = true) :
      StepWrites s (s.writeCur c 0)
  | next {c : Ctx} (hnext : s.commandNext (.next c)) (hc : c.toNat < s.numCtx) (hv : s.cfgValid = true)
      (hk : s.readCur c < sampleCount s.cfgLen s.cfgDsel.toNat) :
      StepWrites s (s.writeCur c (s.readCur c + 1))

theorem commandNext_of_cons {s : State} {c : Command} {rest : List HostInput} {i : Instr}
    (h : s.inputs = .command c :: rest) (hdec : decode c = .ok i) : s.commandNext i :=
  ⟨c, by simp [h], hdec⟩

theorem resetNext_of_cons {s : State} {o : Option Command} {rest : List HostInput}
    (h : s.inputs = .reset o :: rest) : s.resetNext :=
  ⟨o, by simp [h]⟩

/-- What a command that goes on writes, by the command. -/
theorem exec_writes {s t : State} {i : Instr} {rest : List HostInput} (hnext : s.commandNext i)
    (h : exec i { s with inputs := rest } = .next t) :
    ∃ u r, StepWrites s u ∧ t = { u with inputs := rest, rsp := r } := by
  cases i with
  | resolve ct =>
    obtain ⟨r, e, -⟩ := execResolve_next ct { s with inputs := rest }
    cases e.symm.trans h
    exact ⟨s, _, .nothing, rfl⟩
  | config dv len bytes =>
    obtain ⟨hwf, ⟨-, rfl⟩ | ⟨sel, hsel, rfl⟩⟩ := execConfig_cases h
    · exact ⟨s, _, .nothing, rfl⟩
    · exact ⟨_, _, .config hnext hwf hsel, rfl⟩
  | length =>
    obtain ⟨-, rfl⟩ | ⟨-, -, rfl⟩ := execLength_cases h
    · exact ⟨s, _, .nothing, rfl⟩
    · exact ⟨s, _, .nothing, rfl⟩
  | start c =>
    obtain ⟨-, rfl⟩ | ⟨-, -, rfl⟩ | ⟨hc, hv, rfl⟩ := execStart_cases h
    · exact ⟨s, _, .nothing, rfl⟩
    · exact ⟨s, _, .nothing, rfl⟩
    · exact ⟨_, _, .start hnext hc hv, rfl⟩
  | next c =>
    obtain ⟨-, rfl⟩ | ⟨-, -, rfl⟩ | ⟨-, -, -, -, rfl⟩ | ⟨hc, hv, -, hk, v, -, rfl⟩ := execNext_cases h
    · exact ⟨s, _, .nothing, rfl⟩
    · exact ⟨s, _, .nothing, rfl⟩
    · exact ⟨s, _, .nothing, rfl⟩
    · exact ⟨_, _, .next hnext hc hv hk, rfl⟩

/-- A step that goes on leaves one of the blocks of `StepWrites`; nothing else of the state is the block's (R20). -/
theorem step_writes {s t : State} (h : step s = .next t) :
    ∃ u l r, StepWrites s u ∧ t = { u with inputs := l, rsp := r } := by
  obtain ⟨-, rfl⟩ | ⟨c, rest, i, hin, hdec, hexec⟩ | ⟨c, rest, e, -, -, rfl⟩ | ⟨o, rest, hin, rfl⟩ | ⟨x, rest, -, -, rfl⟩ :=
    step_cases h
  · exact ⟨s, _, _, .nothing, rfl⟩
  · obtain ⟨u, r, hw, rfl⟩ := exec_writes (commandNext_of_cons hin hdec) hexec
    exact ⟨u, rest, r, hw, rfl⟩
  · exact ⟨s, _, _, .nothing, rfl⟩
  · exact ⟨_, rest, none, .reset (resetNext_of_cons hin), rfl⟩
  · exact ⟨s, _, _, .nothing, rfl⟩

/-! ### Facts about the values written -/

/-- CONFIG writes only legal depths (R91, R23). -/
theorem depthSel_le_four {v : Nat} {sel : BitVec 3} (h : depthSel v = some sel) : sel.toNat ≤ 4 := by
  unfold depthSel at h
  split at h <;> cases h <;> decide

/-- No depth gives more than eight samples a byte (R95). -/
theorem sampleCount_le (len sel : Nat) : sampleCount len sel ≤ len * 8 := by
  rw [sampleCount, Nat.shiftRight_eq_div_pow, Nat.shiftLeft_eq]
  exact Nat.div_le_self _ _

/-- A write of one cursor leaves the cursor file within a bound that the value written meets. -/
theorem writeCur_forall_le {s : State} {c : Ctx} {v n : Nat} (hv : v ≤ n) (hs : ∀ k ∈ s.cur, k ≤ n) :
    ∀ k ∈ (s.writeCur c v).cur, k ≤ n := by
  intro k hk
  obtain hk | rfl := List.mem_or_eq_of_mem_set hk
  · exact hs k hk
  · exact hv

theorem clearCur_cur_eq_zero {s : State} {k : Nat} (hk : k ∈ s.clearCur.cur) : k = 0 :=
  List.eq_of_mem_replicate hk

@[simp] theorem resetWith_readCur (p : Params) (c : Ctx) : (State.resetWith p).readCur c = 0 := by
  simp only [State.readCur, State.resetWith, List.getD, List.getElem?_replicate]
  split <;> rfl

@[simp] theorem resetWith_params (p : Params) : (State.resetWith p).params = p := by
  simp [State.resetWith, State.params, State.numCtx]

/-! ### The invariant right after reset -/

theorem resetWith_depthLegal (p : Params) : (State.resetWith p).DepthLegal := fun hv => by cases hv

theorem resetWith_cursorsInRange (p : Params) : (State.resetWith p).CursorsInRange := fun hv => by cases hv

theorem resetWith_unconfiguredAtReset (p : Params) : (State.resetWith p).UnconfiguredAtReset :=
  fun _ => ⟨rfl, rfl, fun _ => List.eq_of_mem_replicate⟩

theorem resetWith_inv {p : Params} (hp : p.Legal) : (State.resetWith p).Inv := by
  have hlegal : (State.resetWith p).params.Legal := by rwa [resetWith_params]
  have hlen : (State.resetWith p).LenFits := Nat.two_pow_pos _
  exact ⟨hlegal, hlen, resetWith_depthLegal p, resetWith_cursorsInRange p, rfl,
    resetWith_unconfiguredAtReset p⟩

/-! ### Each part of the invariant through what a step writes -/

namespace StepWrites

variable {s u : State}

theorem params_eq (hw : StepWrites s u) : u.params = s.params := by
  cases hw with
  | nothing => rfl
  | reset => exact resetWith_params _
  | config => exact (clearCur_params _).trans (bind_params ..)
  | start | next => exact writeCur_params ..

theorem lenFits (hw : StepWrites s u) (hs : s.LenFits) : u.LenFits := by
  cases hw with
  | nothing | start | next => exact hs
  | reset => exact Nat.two_pow_pos _
  | config hnext hwf hsel => exact ((wf_config_iff ..).1 hwf).1

theorem depthLegal (hw : StepWrites s u) (hs : s.DepthLegal) : u.DepthLegal := by
  cases hw with
  | nothing | start | next => exact hs
  | reset => exact resetWith_depthLegal _
  | config hnext hwf hsel => exact fun _ => depthSel_le_four hsel

/-- NEXT moves a cursor only from below the count, so the cursor moved is still at most the count (R100). -/
theorem cursorsInRange (hw : StepWrites s u) (hs : s.CursorsInRange) : u.CursorsInRange := by
  cases hw with
  | nothing => exact hs
  | reset => exact resetWith_cursorsInRange _
  | config => exact fun _ k hk => clearCur_cur_eq_zero hk ▸ Nat.zero_le _
  | start => exact fun hv => writeCur_forall_le (Nat.zero_le _) (hs hv)
  | next hnext hc hv hk => exact fun hv => writeCur_forall_le hk (hs hv)

theorem bufferBound (hw : StepWrites s u) (hs : s.BufferBound) : u.BufferBound := by
  cases hw with
  | nothing | start | next => exact hs
  | reset => rfl
  | config hnext hwf hsel =>
    obtain ⟨-, hlen⟩ := (wf_config_iff ..).1 hwf
    simp [State.BufferBound, ofBytes_indices, hlen]

/-- START and NEXT write a cursor only of a configured block. -/
theorem unconfiguredAtReset (hw : StepWrites s u) (hs : s.UnconfiguredAtReset) : u.UnconfiguredAtReset := by
  cases hw with
  | nothing => exact hs
  | reset => exact resetWith_unconfiguredAtReset _
  | config => exact fun hu => nomatch hu
  | start hnext hc hv | next hnext hc hv => exact fun hu => nomatch hv.symm.trans hu

theorem inv (hw : StepWrites s u) (hs : s.Inv) : u.Inv := by
  obtain ⟨hlegal, hlen, hdepth, hcur, hbuf, hzero⟩ := hs
  exact ⟨hw.params_eq.symm ▸ hlegal, hw.lenFits hlen, hw.depthLegal hdepth, hw.cursorsInRange hcur,
    hw.bufferBound hbuf, hw.unconfiguredAtReset hzero⟩

end StepWrites

/-! ### The statements about invariants

None of the properties reads what the host does next or the response port, so what holds of the block written holds of the
state after the step. -/

/-- Settles O52: each part of the invariant is kept by everything a step can write. -/
theorem invariantKept : Obligations.InvariantKept := by
  intro s t hs h
  obtain ⟨u, l, r, hw, rfl⟩ := step_writes h
  exact hw.inv hs

/-- Settles O51: after reset there is no configuration, and everything is at its reset value. -/
theorem invariantAtReset : Obligations.InvariantAtReset :=
  ⟨fun _ hp => resetWith_inv hp, resetWith_inv (by decide)⟩

/-- Settles O54: of the writes that leave the block configured, CONFIG alone changes `CFG_DSEL`, and only to what `DepthSel`
gives. -/
theorem depthSelectStaysLegal : Obligations.DepthSelectStaysLegal := by
  refine ⟨resetWith_depthLegal, fun s t hs h => ?_⟩
  obtain ⟨u, l, r, hw, rfl⟩ := step_writes h
  exact hw.depthLegal hs

/-- Under the invariant a cursor fits in `CNT_W` bits: it is at most eight times a length of `LEN_W` bits (R9, R35). -/
theorem cursor_lt_of_inv {s : State} (hs : s.Inv) {k : Nat} (hk : k ∈ s.cur) : k < 2 ^ s.params.cntW := by
  obtain ⟨-, hlen, -, hcur, -, hzero⟩ := hs
  cases hv : s.cfgValid with
  | false =>
    obtain ⟨-, -, hz⟩ := hzero hv
    exact hz k hk ▸ Nat.two_pow_pos _
  | true =>
    calc k ≤ sampleCount s.cfgLen s.cfgDsel.toNat := hcur hv k hk
      _ ≤ s.cfgLen * 8 := sampleCount_le ..
      _ < 2 ^ s.lenW * 2 ^ 3 := Nat.mul_lt_mul_of_pos_right hlen (by decide)
      _ = 2 ^ s.params.cntW := (Nat.pow_add ..).symm

/-- Settles O55: START and CONFIG write 0, and NEXT moves a cursor only from below the count. -/
theorem cursorNeverWraps : Obligations.CursorNeverWraps := by
  refine ⟨resetWith_cursorsInRange, fun s t hs h => ?_, fun s hs k hk => cursor_lt_of_inv hs hk⟩
  obtain ⟨u, l, r, hw, rfl⟩ := step_writes h
  exact hw.cursorsInRange hs

/-! ### The statements about who writes what -/

/-- Settles O49: of what a step can write, CONFIG alone sets `CFG_VALID` and reset alone clears it. -/
theorem cfgValidWriters : Obligations.CfgValidWriters := by
  intro s t h
  obtain ⟨u, l, r, hw, rfl⟩ := step_writes h
  refine ⟨fun h0 h1 => ?_, fun h1 h0 => ?_⟩
  · cases hw with
    | nothing | start | next => cases h0.symm.trans h1
    | reset => cases h1
    | config hnext hwf hsel => exact ⟨_, _, _, hnext, by simp [hsel]⟩
  · cases hw with
    | nothing | start | next => cases h1.symm.trans h0
    | reset hnext => exact hnext
    | config => cases h0

/-- A cursor that a write changed is the one written. -/
theorem eq_of_readCur_writeCur_ne {s : State} {c d : Ctx} {v : Nat} (h : (s.writeCur c v).readCur d ≠ s.readCur d) :
    d = c :=
  Classical.byContradiction fun hne => h (readCur_writeCur_other s c d v hne)

/-- Settles O50: of what a step can write, each change of a cursor has one of the values and causes named. -/
theorem cursorWriters : Obligations.CursorWriters := by
  intro s t d h hne
  obtain ⟨u, l, r, hw, rfl⟩ := step_writes h
  change u.readCur d ≠ s.readCur d at hne
  change (u.readCur d = 0 ∧ _) ∨ (u.readCur d = s.readCur d + 1 ∧ _)
  cases hw with
  | nothing => exact absurd rfl hne
  | reset hnext => exact .inl ⟨resetWith_readCur _ d, .inl hnext⟩
  | config hnext hwf hsel =>
    exact .inl ⟨readCur_clearCur _ d, .inr (.inr ⟨_, _, _, hnext, by simp [hsel]⟩)⟩
  | start hnext hc =>
    obtain rfl := eq_of_readCur_writeCur_ne hne
    exact .inl ⟨readCur_writeCur_same s d 0 hc, .inr (.inl hnext)⟩
  | next hnext hc =>
    obtain rfl := eq_of_readCur_writeCur_ne hne
    exact .inr ⟨readCur_writeCur_same s d _ hc, hnext⟩

/-! ### The frames of the commands (R33) -/

/-- Only the response of `t` differs from `s`, and every byte of the buffer reads as before. -/
def State.SameButResponse (s t : State) : Prop :=
  t = { s with rsp := t.rsp } ∧ ∀ a, bufRead t a = bufRead s a

theorem sameButResponse_of_response (s : State) (r : Option Response) : s.SameButResponse { s with rsp := r } :=
  ⟨rfl, fun a => bufRead_congr s _ rfl rfl a⟩

/-- Only cursor `c` and the response of `t` differ from `s`, and every byte of the buffer reads as before. -/
def State.SameButCursor (s t : State) (c : Ctx) : Prop :=
  t = { s with cur := t.cur, rsp := t.rsp } ∧ t.numCtx = s.numCtx ∧
    (∀ d : Ctx, d ≠ c → t.readCur d = s.readCur d) ∧ ∀ a, bufRead t a = bufRead s a

theorem sameButCursor_of_response (s : State) (c : Ctx) (r : Option Response) :
    s.SameButCursor { s with rsp := r } c :=
  ⟨rfl, rfl, fun _ _ => rfl, fun a => bufRead_congr s _ rfl rfl a⟩

theorem sameButCursor_of_writeCur (s : State) (c : Ctx) (v : Nat) (r : Option Response) :
    s.SameButCursor { s.writeCur c v with rsp := r } c :=
  ⟨rfl, writeCur_numCtx s c v, fun d hd => readCur_writeCur_other s c d v hd, fun a => bufRead_congr s _ rfl rfl a⟩

/-- Settles O46: both commands answer with a response alone, whatever it is. -/
theorem frameOfResolveAndLength : Obligations.FrameOfResolveAndLength := by
  rintro s t ct (h | h)
  · obtain ⟨r, e, -⟩ := execResolve_next ct s
    cases e.symm.trans h
    exact sameButResponse_of_response s (some r)
  · obtain ⟨-, rfl⟩ | ⟨-, -, rfl⟩ := execLength_cases h
    · exact sameButResponse_of_response s _
    · exact sameButResponse_of_response s _

/-- Settles O47: START and NEXT answer with a response alone, or write one value to their own cursor. -/
theorem frameOfStartAndNext : Obligations.FrameOfStartAndNext := by
  rintro s t c (h | h)
  · obtain ⟨-, rfl⟩ | ⟨-, -, rfl⟩ | ⟨-, -, rfl⟩ := execStart_cases h
    · exact sameButCursor_of_response s c _
    · exact sameButCursor_of_response s c _
    · exact sameButCursor_of_writeCur s c 0 _
  · obtain ⟨-, rfl⟩ | ⟨-, -, rfl⟩ | ⟨-, -, -, -, rfl⟩ | ⟨-, -, -, -, v, -, rfl⟩ := execNext_cases h
    · exact sameButCursor_of_response s c _
    · exact sameButCursor_of_response s c _
    · exact sameButCursor_of_response s c _
    · exact sameButCursor_of_writeCur s c _ _

/-- Settles O48: no command writes the parameters or the host's list, and CONFIG at an invalid depth answers with a response
alone. -/
theorem frameOfConfig : Obligations.FrameOfConfig := by
  intro s t dv len bytes h
  obtain ⟨hparams, hinputs⟩ := exec_keeps_params_inputs h
  refine ⟨congrArg Params.lenW hparams, congrArg Params.numCtx hparams, hinputs, fun hdepth => ?_⟩
  obtain ⟨-, ⟨-, rfl⟩ | ⟨sel, hsel, -⟩⟩ := execConfig_cases h
  · exact sameButResponse_of_response s _
  · cases hdepth.symm.trans hsel

end Sys2Proof.Machine
end

section
/-! What the block reads of its buffer and where a command can fault, said once, and the statements about both that follow
(spec 20_memory.md R40 to R57). -/

namespace Sys2Proof.Machine

/-! ### Reads of a buffer bound from bytes -/

theorem bufRead_of_presented {s : State} {bytes : List Byte} {i : Nat} {b : Byte}
    (hbuf : s.buf = some (Memory.ofBytes bytes)) (hlen : s.cfgLen = bytes.length) (hb : bytes[i]? = some b) :
    bufRead s i = .ok b := by
  simp [bufRead_of_bytes s bytes i hbuf hlen, hb]

theorem bufRead_of_length_le {s : State} {bytes : List Byte} {i : Nat}
    (hbuf : s.buf = some (Memory.ofBytes bytes)) (hlen : s.cfgLen = bytes.length) (hi : bytes.length ≤ i) :
    bufRead s i = .error .bufReadOutOfRange := by
  simp [bufRead_of_bytes s bytes i hbuf hlen, List.getElem?_eq_none hi]

/-- Settles O18: a CONFIG at a valid depth that goes on has bound the bytes presented, as many as `LEN` says. -/
theorem configBindsPresentedBytes : Obligations.ConfigBindsPresentedBytes := by
  intro s t dv sel len bytes hsel h
  obtain ⟨hwf, ⟨hnone, -⟩ | ⟨sel', -, rfl⟩⟩ := execConfig_cases h
  · cases hsel.symm.trans hnone
  · obtain ⟨-, rfl⟩ := (wf_config_iff ..).1 hwf
    exact ⟨fun i b hb => bufRead_of_presented rfl rfl hb, fun i hi => bufRead_of_length_le rfl rfl hi⟩

/-! ### One sample from its bytes -/

@[simp] theorem extract_four (s : State) (k : Nat) : extract s k 4 = extractPair s k := rfl

theorem extract_of_ne_four {sel : Nat} (h : sel ≠ 4) (s : State) (k : Nat) : extract s k sel = extractField s k sel :=
  if_neg h

theorem extractPair_ok {s : State} {k : Nat} {a b : Byte} (ha : bufRead s (2 * k) = .ok a)
    (hb : bufRead s (2 * k + 1) = .ok b) : extractPair s k = .ok ((a.toNat <<< 8) ||| b.toNat) := by
  simp [extractPair, ha, hb]

/-- The low byte of a pair lies below the high one, so their bits do not meet (R45). -/
theorem shiftLeft_or_eq_add (a b : Byte) : (a.toNat <<< 8) ||| b.toNat = 256 * a.toNat + b.toNat := by
  rw [← Nat.shiftLeft_add_eq_or_of_lt b.isLt, Nat.shiftLeft_eq, Nat.mul_comm]

/-- Settles O29: both bytes are read, and their bits put together are a sum. -/
theorem sampleIsBigEndianPair : Obligations.SampleIsBigEndianPair := by
  rintro s bytes k a b ⟨-, -, hlen, hbuf⟩ ha hb
  have hra := bufRead_of_presented hbuf hlen ha
  have hrb := bufRead_of_presented hbuf hlen hb
  rw [extract_four, extractPair_ok hra hrb, shiftLeft_or_eq_add]

/-! ### The bytes of a sample below the count lie inside the buffer (R57) -/

theorem mul_two_pow_add_le_of_lt_sampleCount {len sel k : Nat} (h : k < sampleCount len sel) :
    k * 2 ^ sel + 2 ^ sel ≤ len * 8 := by
  rw [sampleCount, Nat.shiftRight_eq_div_pow, Nat.shiftLeft_eq] at h
  rw [← Nat.succ_mul]
  exact Nat.mul_le_of_le_div _ _ _ h

theorem pairIndex_lt {len k : Nat} (h : k < sampleCount len 4) : 2 * k + 1 < len := by
  have := mul_two_pow_add_le_of_lt_sampleCount h
  omega

theorem fieldIndex_lt {len sel k : Nat} (h : k < sampleCount len sel) : k * 2 ^ sel / 8 < len := by
  have hle := mul_two_pow_add_le_of_lt_sampleCount h
  have hpos : 0 < 2 ^ sel := Nat.two_pow_pos sel
  omega

/-! ### Where a command can fault -/

theorem extractPair_error {s : State} {k : Nat} {f : Fault} (h : extractPair s k = .error f) :
    bufRead s (2 * k) = .error f ∨ bufRead s (2 * k + 1) = .error f := by
  unfold extractPair at h
  split at h
  next f' ha => cases h; exact .inl ha
  next a ha =>
    split at h
    next f' hb => cases h; exact .inr hb
    next => cases h

theorem extractField_error {s : State} {k sel : Nat} {f : Fault} (h : extractField s k sel = .error f) :
    bufRead s (k * 2 ^ sel / 8) = .error f := by
  have hidx : (k * 1 <<< sel) >>> 3 = k * 2 ^ sel / 8 := by
    rw [Nat.one_shiftLeft, Nat.shiftRight_eq_div_pow]
  simp only [extractField, hidx] at h
  split at h
  next f' hr => cases h; exact hr
  next => cases h

/-- A sample below the count fails to extract only by a read inside the buffer that fails (R57). -/
theorem extract_error {s : State} {k sel : Nat} {f : Fault} (hk : k < sampleCount s.cfgLen sel)
    (h : extract s k sel = .error f) : ∃ i < s.cfgLen, bufRead s i = .error f := by
  by_cases hsel : sel = 4
  · subst hsel
    have hidx := pairIndex_lt hk
    obtain hr | hr := extractPair_error h
    · exact ⟨_, Nat.lt_of_succ_lt hidx, hr⟩
    · exact ⟨_, hidx, hr⟩
  · rw [extract_of_ne_four hsel] at h
    exact ⟨_, fieldIndex_lt hk, extractField_error h⟩

theorem requireContext_fault {c : Ctx} {s : State} {go : Result} {f : Fault} (h : requireContext c s go = .fault f) :
    go = .fault f := by
  unfold requireContext at h
  split at h
  · exact h
  · cases h

theorem requireConfigured_fault {op : Byte} {s : State} {go : Result} {f : Fault}
    (h : requireConfigured op s go = .fault f) : s.cfgValid = true ∧ go = .fault f := by
  unfold requireConfigured at h
  split at h
  next hv => exact ⟨hv, h⟩
  next => cases h

theorem requireDepth_fault {s : State} {go : Result} {f : Fault} (h : requireDepth s go = .fault f) :
    (4 < s.cfgDsel.toNat ∧ f = .illegalDepthSelect) ∨ (s.cfgDsel.toNat ≤ 4 ∧ go = .fault f) := by
  unfold requireDepth at h
  split at h
  next hd => exact .inr ⟨hd, h⟩
  next hd => cases h; exact .inl ⟨Nat.lt_of_not_le hd, rfl⟩

/-- The two ways in which a configured block can fault with `f`: its depth select is illegal, or a read inside the buffer
fails. -/
def State.FaultsWith (s : State) (f : Fault) : Prop :=
  s.cfgValid = true ∧
    ((4 < s.cfgDsel.toNat ∧ f = .illegalDepthSelect) ∨ ∃ i < s.cfgLen, bufRead s i = .error f)

theorem execLength_fault {s : State} {f : Fault} (h : execLength s = .fault f) : s.FaultsWith f := by
  obtain ⟨hv, h⟩ := requireConfigured_fault h
  obtain hd | ⟨-, h⟩ := requireDepth_fault h
  · exact ⟨hv, .inl hd⟩
  · cases h

theorem execStart_ne_fault (c : Ctx) (s : State) (f : Fault) : execStart c s ≠ .fault f := by
  intro h
  obtain ⟨-, h⟩ := requireConfigured_fault (requireContext_fault h)
  cases h

theorem execNext_fault {c : Ctx} {s : State} {f : Fault} (h : execNext c s = .fault f) : s.FaultsWith f := by
  obtain ⟨hv, h⟩ := requireConfigured_fault (requireContext_fault h)
  obtain hd | ⟨-, h⟩ := requireDepth_fault h
  · exact ⟨hv, .inl hd⟩
  · split at h
    next => cases h
    next hk =>
      split at h
      next f' hx => cases h; exact ⟨hv, .inr (extract_error (Nat.lt_of_not_le hk) hx)⟩
      next => cases h

/-- A command faults only in a configured block and in one of two ways; RESOLVE, CONFIG and START never do. -/
theorem exec_fault {i : Instr} {s : State} {f : Fault} (h : exec i s = .fault f) : s.FaultsWith f := by
  cases i with
  | resolve ct =>
    obtain ⟨r, e, -⟩ := execResolve_next ct s
    cases e.symm.trans h
  | config dv len bytes =>
    obtain ⟨-, t, e⟩ | ⟨-, r, e⟩ := exec_config_next_or_refused dv len bytes s
    · cases e.symm.trans h
    · cases e.symm.trans h
  | length => exact execLength_fault h
  | start c => exact (execStart_ne_fault c s f h).elim
  | next c => exact execNext_fault h

theorem bufRead_ne_outOfRange {s : State} {i : Nat} (hi : i < s.cfgLen) : bufRead s i ≠ .error .bufReadOutOfRange := by
  unfold bufRead
  split
  · nofun
  · rw [if_pos hi]
    split <;> nofun

/-- Settles O27: the indices by the sample count, and NEXT fails in no read but one inside the buffer, whatever the state. -/
theorem readsStayInRange : Obligations.ReadsStayInRange := by
  refine ⟨fun len sel k _ hk => ⟨?_, fun _ => fieldIndex_lt hk⟩, fun s c h => ?_⟩
  · rintro rfl
    have hidx := pairIndex_lt hk
    exact ⟨Nat.lt_of_succ_lt hidx, hidx⟩
  · obtain ⟨-, ⟨-, hf⟩ | ⟨i, hi, hr⟩⟩ := exec_fault h
    · cases hf
    · exact bufRead_ne_outOfRange hi hr

/-! ### No step faults from a state that meets the invariant -/

/-- A configured block under the invariant reads a byte at every index below `CFG_LEN` (R26, R43). -/
theorem bufRead_ok_of_bufferBound {s : State} {i : Nat} (hb : s.BufferBound) (hv : s.cfgValid = true)
    (hi : i < s.cfgLen) : ∃ b, bufRead s i = .ok b := by
  rw [State.BufferBound, if_pos hv] at hb
  obtain ⟨m, hm, hidx⟩ := Option.map_eq_some_iff.1 hb
  have hmem : i ∈ m.map Prod.fst := hidx ▸ List.mem_range.2 hi
  obtain ⟨b, hread⟩ := Option.isSome_iff_exists.1 (read_isSome_of_mem m i hmem)
  exact ⟨b, by simp [bufRead, hm, hi, hread]⟩

theorem not_faultsWith_of_inv {s : State} (hs : s.Inv) (f : Fault) : ¬ s.FaultsWith f := by
  obtain ⟨-, -, hdepth, -, hbound, -⟩ := hs
  rintro ⟨hv, ⟨hd, -⟩ | ⟨i, hi, hr⟩⟩
  · exact absurd (hdepth hv) (Nat.not_le_of_lt hd)
  · obtain ⟨b, hok⟩ := bufRead_ok_of_bufferBound hbound hv hi
    cases hok.symm.trans hr

theorem step_of_no_input {s : State} (h : s.inputs = []) : step s = idle s := by
  simp [step, fetchInput, h]

theorem step_reset {s : State} {o : Option Command} {rest : List HostInput} (h : s.inputs = .reset o :: rest) :
    step s = resetBlock o { s with inputs := rest } := by
  simp [step, fetchInput_cons h]

theorem hostWrite_ne_fault (a : Nat) (v : Byte) (s : State) (f : Fault) : hostWrite a v s ≠ .fault f := by
  unfold hostWrite
  split
  · split <;> nofun
  · nofun

theorem hostWithdraw_ne_fault (s : State) (f : Fault) : hostWithdraw s ≠ .fault f := by
  unfold hostWithdraw
  split <;> nofun

/-- A command presented faults only in the meaning of what it decodes to; an illegal one is answered (R134). -/
theorem runCommand_fault {c : Command} {s : State} {f : Fault} (h : runCommand c s = .fault f) : s.FaultsWith f := by
  unfold runCommand at h
  split at h
  · exact exec_fault h
  · cases h

/-- Of all that the host does, only a command makes a step fault. -/
theorem step_fault {s : State} {f : Fault} (h : step s = .fault f) : s.FaultsWith f := by
  cases hin : s.inputs with
  | nil =>
    rw [step_of_no_input hin] at h
    cases h
  | cons x rest =>
    cases x with
    | command c =>
      rw [step_command hin] at h
      obtain ⟨hv, hd | ⟨i, hi, hr⟩⟩ := runCommand_fault h
      · exact ⟨hv, .inl hd⟩
      · exact ⟨hv, .inr ⟨i, hi, (bufRead_congr s _ rfl rfl i).symm.trans hr⟩⟩
    | reset o =>
      rw [step_reset hin] at h
      cases h
    | writeBuffer a v =>
      rw [step_writeBuffer hin] at h
      exact (hostWrite_ne_fault _ _ _ _ h).elim
    | withdrawBuffer =>
      rw [step_withdrawBuffer hin] at h
      exact (hostWithdraw_ne_fault _ _ h).elim
    | overlap a b =>
      rw [step_overlap hin] at h
      cases h

/-- Settles O53: a fault needs an illegal depth or a failing read inside the buffer, and the invariant excludes both. -/
theorem noFaultFromInvariant : Obligations.NoFaultFromInvariant :=
  fun _ f hs h => not_faultsWith_of_inv hs f (step_fault h)

end Sys2Proof.Machine
end

section
/-! The match table said in fields and in encoded words, and the statements about decoding that follow from it
(spec 30_encoding.md R61 to R69). -/

namespace Sys2Proof

/-! ### A word by its fields (R61) -/

@[simp] theorem opField_and (w v : Word) : opField (w &&& v) = opField w &&& opField v := BitVec.extractLsb'_and

@[simp] theorem ctxField_and (w v : Word) : ctxField (w &&& v) = ctxField w &&& ctxField v := BitVec.extractLsb'_and

@[simp] theorem immField_and (w v : Word) : immField (w &&& v) = immField w &&& immField v := BitVec.extractLsb'_and

@[simp] theorem rsvField_and (w v : Word) : rsvField (w &&& v) = rsvField w &&& rsvField v := BitVec.extractLsb'_and

theorem word_eq_iff_fields {w v : Word} (hv : rsvField v = 0) :
    w = v ↔ opField w = opField v ∧ immField w = immField v ∧ ctxField w = ctxField v ∧ rsvField w = 0 := by
  constructor
  · rintro rfl
    exact ⟨rfl, rfl, rfl, hv⟩
  · rintro ⟨hop, himm, hctx, hrsv⟩
    rw [word_of_fields w hrsv, word_of_fields v hv, hop, himm, hctx]

theorem fieldPlacement (i : Instr) : Laws.FieldPlacement.Statement i := by
  cases i with
  | resolve ct => exact Laws.FieldPlacement.resolve ct
  | config dv len bytes => exact Laws.FieldPlacement.config dv len bytes
  | length => exact Laws.FieldPlacement.length
  | start c => exact Laws.FieldPlacement.start c
  | next c => exact Laws.FieldPlacement.next c

theorem eq_encodeWord_iff_fields (w : Word) (i : Instr) :
    w = encodeWord i ↔
      opField w = opNumber i ∧ immField w = immOperand i ∧ ctxField w = ctxOperand i ∧ rsvField w = 0 := by
  obtain ⟨hop, himm, hctx, hrsv⟩ := fieldPlacement i
  rw [word_eq_iff_fields hrsv, hop, himm, hctx]

/-! ### What it is for a row to select a word (R65) -/

theorem rsvField_pattern : ∀ r ∈ rows, rsvField r.pattern = 0 := by decide

theorem opField_mask : ∀ r ∈ rows, opField r.mask = BitVec.allOnes 4 := by decide

/-- R65: "The rows differ in OP". -/
theorem row_eq_of_opField_pattern :
    ∀ r ∈ rows, ∀ q ∈ rows, opField r.pattern = opField q.pattern → r = q := by decide

theorem opField_of_selects {r : Row} (hr : r ∈ rows) {w : Word} (h : r.selects w = true) :
    opField w = opField r.pattern := by
  have hw : w &&& r.mask = r.pattern := beq_iff_eq.1 h
  rw [← hw, opField_and, opField_mask r hr, BitVec.and_allOnes]

theorem selects_iff_fields {r : Row} (hr : r ∈ rows) (w : Word) :
    r.selects w = true ↔
      opField w &&& opField r.mask = opField r.pattern ∧ immField w &&& immField r.mask = immField r.pattern ∧
        ctxField w &&& ctxField r.mask = ctxField r.pattern ∧ rsvField w &&& rsvField r.mask = 0 := by
  rw [Row.selects, beq_iff_eq, word_eq_iff_fields (rsvField_pattern r hr)]
  simp

/-- A row selects exactly the words that encode what it makes of them: a field it masks in must be the operand's constant, and
a field it masks out is the operand. -/
theorem selects_iff_eq_encodeWord {r : Row} (hr : r ∈ rows) (c : Command) :
    r.selects c.word = true ↔ c.word = encodeWord (assemble r.op c) := by
  have mask4 : ∀ x : BitVec 4, x &&& 15#4 = x := fun _ => BitVec.and_allOnes
  have mask8 : ∀ x : BitVec 8, x &&& 255#8 = x := fun _ => BitVec.and_allOnes
  have mask16 : ∀ x : BitVec 16, x &&& 65535#16 = x := fun _ => BitVec.and_allOnes
  rw [selects_iff_fields hr, eq_encodeWord_iff_fields]
  simp only [rows, List.mem_cons, List.not_mem_nil, or_false] at hr
  obtain rfl | rfl | rfl | rfl | rfl := hr <;>
    simp [assemble, opNumber, immOperand, ctxOperand, opField, immField, ctxField, rsvField, mask4, mask8, mask16]

/-- Settles O3: a row masks in the whole `OP`, so two rows that select one word have one `OP`, and the rows differ in `OP`. -/
theorem atMostOneRowMatches : Obligations.AtMostOneRowMatches := by
  intro w r q hr hq hrw hqw
  exact row_eq_of_opField_pattern r hr q hq ((opField_of_selects hr hrw).symm.trans (opField_of_selects hq hqw))

/-! ### Decoding by the table (R69) -/

theorem selects_of_find {c : Command} {r : Row} (h : rows.find? (fun r => r.selects c.word) = some r) :
    r ∈ rows ∧ r.selects c.word = true := by
  have hsel := List.find?_some h
  exact ⟨List.mem_of_find?_eq_some h, hsel⟩

theorem decode_of_selects {r : Row} (hr : r ∈ rows) {c : Command} (h : r.selects c.word = true) :
    decode c = .ok (assemble r.op c) := by
  unfold decode
  split
  next q hq =>
    obtain ⟨hmem, hsel⟩ := selects_of_find hq
    rw [atMostOneRowMatches c.word q r hmem hr hsel h]
  next hnone => exact absurd h (List.find?_eq_none.1 hnone r hr)

theorem decode_ok {c : Command} {i : Instr} (h : decode c = .ok i) :
    ∃ r ∈ rows, r.selects c.word = true ∧ i = assemble r.op c := by
  unfold decode at h
  split at h
  next r hr =>
    cases h
    obtain ⟨hmem, hsel⟩ := selects_of_find hr
    exact ⟨r, hmem, hsel, rfl⟩
  next => cases h

theorem decode_error {c : Command} {e : DecodeError} (h : decode c = .error e) : e = rejection c.word := by
  unfold decode at h
  split at h
  next => cases h
  next => cases h; rfl

theorem exists_decode_error_iff (c : Command) :
    (∃ e, decode c = .error e) ↔ ∀ r ∈ rows, ¬ r.selects c.word = true := by
  constructor
  · rintro ⟨e, he⟩ r hr hsel
    cases he.symm.trans (decode_of_selects hr hsel)
  · intro hnone
    cases hdec : decode c with
    | error e => exact ⟨e, rfl⟩
    | ok i =>
      obtain ⟨r, hr, hsel, -⟩ := decode_ok hdec
      exact absurd hsel (hnone r hr)

/-! ### Encoding and decoding are inverse -/

/-- Every command is what some row makes of its encoding. -/
theorem exists_row_assemble_encode (i : Instr) : ∃ r ∈ rows, assemble r.op (encode i) = i := by
  cases i with
  | resolve ct => exact ⟨rows[0], List.getElem_mem _, by simp [rows, assemble, encode, encodeWord]⟩
  | config dv len bytes =>
    exact ⟨rows[1], List.getElem_mem _, by simp [rows, assemble, encode, encodeWord, sideLen, sideBytes]⟩
  | length => exact ⟨rows[2], List.getElem_mem _, rfl⟩
  | start c => exact ⟨rows[3], List.getElem_mem _, by simp [rows, assemble, encode, encodeWord]⟩
  | next c => exact ⟨rows[4], List.getElem_mem _, by simp [rows, assemble, encode, encodeWord]⟩

/-- Settles O1: the row that makes the command of its encoding selects that encoding. -/
theorem decodeOfEncode : Obligations.DecodeOfEncode := by
  intro i
  obtain ⟨r, hr, hasm⟩ := exists_row_assemble_encode i
  have hsel : r.selects (encode i).word = true := (selects_iff_eq_encodeWord hr _).2 (by rw [hasm]; rfl)
  rw [decode_of_selects hr hsel, hasm]

/-- The CONFIG row carries both side operands over (R62). -/
theorem side_assemble_of_isConfig {op : Op} {c : Command} (h : Machine.isConfig (assemble op c) = true) :
    sideLen (assemble op c) = c.len ∧ sideBytes (assemble op c) = c.bytes := by
  cases op with
  | config => exact ⟨rfl, rfl⟩
  | resolve | length | start | next => cases h

/-- Settles O2: the row that selects the word makes of it a command that the word encodes. -/
theorem encodeOfDecode : Obligations.EncodeOfDecode := by
  intro c i h
  obtain ⟨r, hr, hsel, rfl⟩ := decode_ok h
  have hword : encodeWord (assemble r.op c) = c.word := ((selects_iff_eq_encodeWord hr c).1 hsel).symm
  refine ⟨hword, fun hconfig => ?_⟩
  obtain ⟨hlen, hbytes⟩ := side_assemble_of_isConfig hconfig
  rw [encode, hword, hlen, hbytes]

/-! ### Which words are rejected, and under which name -/

/-- `OP` is 0x0 or one of 0x6 .. 0xF (R66). -/
abbrev OpReserved (op : BitVec 4) : Prop := op = 0 ∨ 6 ≤ op.toNat

theorem opReserved_iff : ∀ op : BitVec 4, OpReserved op ↔ op ≠ 1 ∧ op ≠ 2 ∧ op ≠ 3 ∧ op ≠ 4 ∧ op ≠ 5 := by decide

theorem opAssigned_iff : ∀ op : BitVec 4, opAssigned op = true ↔ ¬ OpReserved op := by decide

theorem rejection_of_opReserved {w : Word} (h : OpReserved (opField w)) : rejection w = .reservedOp (opField w) :=
  if_neg fun ha => (opAssigned_iff _).1 ha h

theorem rejection_of_not_opReserved {w : Word} (h : ¬ OpReserved (opField w)) :
    rejection w = .mustBeZero (opField w) :=
  if_pos ((opAssigned_iff _).2 h)

/-- Settles O5: a word that no row selects is rejected under the name `rejection` gives it. -/
theorem rejectionIsNamed : Obligations.RejectionIsNamed := by
  intro c e h
  obtain rfl := decode_error h
  exact ⟨rejection_of_opReserved, rejection_of_not_opReserved⟩

/-- The rows one by one: each asks for its `OP`, for `RSV = 0`, and for 0 in the fields its command has no operand for. -/
theorem no_row_selects_iff (c : Command) :
    (∀ r ∈ rows, ¬ r.selects c.word = true) ↔
      (opField c.word = 1 → ctxField c.word = 0 → rsvField c.word ≠ 0) ∧
      (opField c.word = 2 → ctxField c.word = 0 → rsvField c.word ≠ 0) ∧
      (opField c.word = 3 → immField c.word = 0 → ctxField c.word = 0 → rsvField c.word ≠ 0) ∧
      (opField c.word = 4 → immField c.word = 0 → rsvField c.word ≠ 0) ∧
      (opField c.word = 5 → immField c.word = 0 → rsvField c.word ≠ 0) := by
  have hrows : (∀ r ∈ rows, ¬ r.selects c.word = true) ↔ ∀ r ∈ rows, c.word ≠ encodeWord (assemble r.op c) :=
    forall₂_congr fun r hr => not_congr (selects_iff_eq_encodeWord hr c)
  rw [hrows]
  simp [eq_encodeWord_iff_fields, rows, assemble, opNumber, immOperand, ctxOperand]

/-- Settles O4: a word is rejected when no row selects it. Under a reserved `OP` none does; under each assigned `OP` only its own
row can, and what that row asks for is a statement about the other three fields. -/
theorem illegalWordsExactly : Obligations.IllegalWordsExactly := by
  intro c
  rw [exists_decode_error_iff, no_row_selects_iff]
  generalize opField c.word = op
  by_cases hres : OpReserved op
  · obtain ⟨h1, h2, h3, h4, h5⟩ := (opReserved_iff op).1 hres
    exact iff_of_true
      ⟨fun h => absurd h h1, fun h => absurd h h2, fun h => absurd h h3, fun h => absurd h h4, fun h => absurd h h5⟩
      (.inl hres)
  · have hop : op = 1 ∨ op = 2 ∨ op = 3 ∨ op = 4 ∨ op = 5 := by
      rw [opReserved_iff] at hres
      tauto
    obtain rfl | rfl | rfl | rfl | rfl := hop
    all_goals simp
    all_goals tauto

/-- Settles O6: each word is decoded by evaluation. -/
theorem writtenWordsDecode : Obligations.WrittenWordsDecode := by
  unfold Obligations.WrittenWordsDecode
  decide

end Sys2Proof
end

section
/-! What a command that the host may present answers, the step that runs an encoded command, and the packed response word
(spec 30_encoding.md R71 to R74). -/

namespace Sys2Proof.Machine

/-- Settles O9: the step runs what the encoding decodes to, and that is the command. -/
theorem issuedCommandRuns : Obligations.IssuedCommandRuns := by
  intro s i rest h
  rw [step_command h, runCommand_of_decode (decodeOfEncode i)]

/-! ### The packed response word (R71) -/

theorem or_shiftLeft_eq_add {low n : Nat} (h : low < 2 ^ n) (high : Nat) : low ||| (high <<< n) = low + high * 2 ^ n := by
  rw [Nat.or_comm, ← Nat.shiftLeft_add_eq_or_of_lt h, Nat.shiftLeft_eq, Nat.add_comm]

theorem pack_eq_add (r : Response) :
    r.pack = r.status.code.toNat + r.errCode.code.toNat * 2 ^ 2 + r.errVal.toNat * 2 ^ 8 + r.data * 2 ^ 16 := by
  have hstatus := r.status.code.isLt
  have hcode := r.errCode.code.isLt
  have hval := r.errVal.isLt
  have hlow : r.status.code.toNat + r.errCode.code.toNat * 2 ^ 2 < 2 ^ 8 := by omega
  have hhead : r.status.code.toNat + r.errCode.code.toNat * 2 ^ 2 + r.errVal.toNat * 2 ^ 8 < 2 ^ 16 := by omega
  rw [Response.pack, or_shiftLeft_eq_add hstatus, or_shiftLeft_eq_add hlow, or_shiftLeft_eq_add hhead]

/-- Settles O42: each field is below its width, so the word is the sum of the fields at their places. -/
theorem packedResponseFields : Obligations.PackedResponseFields := by
  intro r dataW hdata
  have hstatus := r.status.code.isLt
  have hcode := r.errCode.code.isLt
  have hval := r.errVal.isLt
  rw [pack_eq_add, Nat.pow_add]
  omega

/-! ### The values a response carries fit in `DATA_W` bits (R10) -/

theorem lut_le_four {ct n : Nat} (h : lut ct = some n) : n ≤ 4 := by
  unfold lut at h
  split at h <;> cases h <;> decide

theorem extractPair_lt {s : State} {k v : Nat} (h : extractPair s k = .ok v) : v < 2 ^ 16 := by
  unfold extractPair at h
  split at h
  next => cases h
  next a ha =>
    split at h
    next => cases h
    next b hb =>
      cases h
      have hhigh := a.isLt
      have hlow := b.isLt
      rw [shiftLeft_or_eq_add]
      omega

theorem packedField_le (x : Byte) (d p : Nat) : packedField x d p ≤ x.toNat :=
  Nat.and_le_left.trans (Nat.shiftRight_le _ _)

theorem extractField_lt {s : State} {k sel v : Nat} (h : extractField s k sel = .ok v) : v < 2 ^ 8 := by
  simp only [extractField] at h
  split at h
  next => cases h
  next x hx => cases h; exact (packedField_le x _ _).trans_lt x.isLt

theorem extract_lt {s : State} {k sel v : Nat} (h : extract s k sel = .ok v) : v < 2 ^ 16 := by
  by_cases hsel : sel = 4
  · subst hsel
    exact extractPair_lt h
  · rw [extract_of_ne_four hsel] at h
    exact (extractField_lt h).trans (by decide)

/-- A length of `LEN_W` bits gives a count of `CNT_W` bits (R9, R95). -/
theorem sampleCount_lt_of_lenFits {s : State} (h : s.LenFits) (sel : Nat) :
    sampleCount s.cfgLen sel < 2 ^ s.params.cntW :=
  calc sampleCount s.cfgLen sel ≤ s.cfgLen * 8 := sampleCount_le ..
    _ < 2 ^ s.lenW * 2 ^ 3 := Nat.mul_lt_mul_of_pos_right h (by decide)
    _ = 2 ^ s.params.cntW := (Nat.pow_add ..).symm

theorem lt_dataW_of_lt_sixteen {n : Nat} (p : Params) (h : n < 2 ^ 16) : n < 2 ^ p.dataW :=
  h.trans_le (Nat.pow_le_pow_right (by decide) (Nat.le_max_left ..))

theorem lt_dataW_of_lt_cntW {n : Nat} {p : Params} (h : n < 2 ^ p.cntW) : n < 2 ^ p.dataW :=
  h.trans_le (Nat.pow_le_pow_right (by decide) (Nat.le_max_right ..))

/-! ### The form of a response (R71 to R73) -/

theorem okData_wf {n dataW : Nat} (h : n < 2 ^ dataW) : (Response.okData n).Wf dataW := by
  simp [Response.Wf, Response.okData, h]

theorem endRsp_wf (dataW : Nat) : Response.endRsp.Wf dataW := by
  simp [Response.Wf, Response.endRsp]

theorem error_wf {k : ErrKind} (hk : k ≠ .noError) (v : Byte) (dataW : Nat) : (Response.error k v).Wf dataW := by
  simp [Response.Wf, Response.error, hk]

theorem okData_zero_wf (dataW : Nat) : (Response.okData 0).Wf dataW := okData_wf (Nat.two_pow_pos _)

/-- A command that goes on delivers a response of the form the rules give. -/
theorem exec_delivers_wf {i : Instr} {s t : State} (hs : s.Inv) (h : exec i s = .next t) :
    ∃ r, t.rsp = some r ∧ r.Wf s.params.dataW := by
  obtain ⟨-, hlen, -⟩ := hs
  cases i with
  | resolve ct =>
    obtain ⟨r, e, ⟨n, hn, rfl⟩ | ⟨-, rfl⟩⟩ := execResolve_next ct s
    · cases e.symm.trans h
      have hle := lut_le_four hn
      exact ⟨_, rfl, okData_wf (lt_dataW_of_lt_sixteen _ (by omega))⟩
    · cases e.symm.trans h
      exact ⟨_, rfl, error_wf (by decide) _ _⟩
  | config dv len bytes =>
    obtain ⟨-, ⟨-, rfl⟩ | ⟨sel, -, rfl⟩⟩ := execConfig_cases h
    · exact ⟨_, rfl, error_wf (by decide) _ _⟩
    · exact ⟨_, rfl, okData_zero_wf _⟩
  | length =>
    obtain ⟨-, rfl⟩ | ⟨-, -, rfl⟩ := execLength_cases h
    · exact ⟨_, rfl, error_wf (by decide) _ _⟩
    · exact ⟨_, rfl, okData_wf (lt_dataW_of_lt_cntW (sampleCount_lt_of_lenFits hlen _))⟩
  | start c =>
    obtain ⟨-, rfl⟩ | ⟨-, -, rfl⟩ | ⟨-, -, rfl⟩ := execStart_cases h
    · exact ⟨_, rfl, error_wf (by decide) _ _⟩
    · exact ⟨_, rfl, error_wf (by decide) _ _⟩
    · exact ⟨_, rfl, okData_zero_wf _⟩
  | next c =>
    obtain ⟨-, rfl⟩ | ⟨-, -, rfl⟩ | ⟨-, -, -, -, rfl⟩ | ⟨-, -, -, -, v, hv, rfl⟩ := execNext_cases h
    · exact ⟨_, rfl, error_wf (by decide) _ _⟩
    · exact ⟨_, rfl, error_wf (by decide) _ _⟩
    · exact ⟨_, rfl, endRsp_wf _⟩
    · exact ⟨_, rfl, okData_wf (lt_dataW_of_lt_sixteen _ (extract_lt hv))⟩

/-! ### A command that the host may present is answered -/

theorem requireContext_ne_refused {c : Ctx} {s : State} {go : Result} {r : Refusal} (h : go ≠ .refused r) :
    requireContext c s go ≠ .refused r := by
  unfold requireContext
  split
  · exact h
  · nofun

theorem requireConfigured_ne_refused {op : Byte} {s : State} {go : Result} {r : Refusal} (h : go ≠ .refused r) :
    requireConfigured op s go ≠ .refused r := by
  unfold requireConfigured
  split
  · exact h
  · nofun

theorem requireDepth_ne_refused {s : State} {go : Result} {r : Refusal} (h : go ≠ .refused r) :
    requireDepth s go ≠ .refused r := by
  unfold requireDepth
  split
  · exact h
  · nofun

theorem execLength_ne_refused (s : State) (r : Refusal) : execLength s ≠ .refused r := by
  refine requireConfigured_ne_refused (requireDepth_ne_refused ?_)
  nofun

theorem execStart_ne_refused (c : Ctx) (s : State) (r : Refusal) : execStart c s ≠ .refused r := by
  refine requireContext_ne_refused (requireConfigured_ne_refused ?_)
  nofun

theorem execNext_ne_refused (c : Ctx) (s : State) (r : Refusal) : execNext c s ≠ .refused r := by
  refine requireContext_ne_refused (requireConfigured_ne_refused (requireDepth_ne_refused ?_))
  split
  · nofun
  · split <;> nofun

/-- Only CONFIG refuses, and only side operands that the host may not present (R19, R164). -/
theorem exec_ne_refused {i : Instr} {s : State} (hwf : i.wf s.params = true) (r : Refusal) : exec i s ≠ .refused r := by
  intro h
  cases i with
  | resolve ct =>
    obtain ⟨r', e, -⟩ := execResolve_next ct s
    cases e.symm.trans h
  | config dv len bytes =>
    obtain ⟨-, t, e⟩ | ⟨hbad, -⟩ := exec_config_next_or_refused dv len bytes s
    · cases e.symm.trans h
    · cases hbad.symm.trans hwf
  | length => exact execLength_ne_refused s r h
  | start c => exact execStart_ne_refused c s r h
  | next c => exact execNext_ne_refused c s r h

theorem exec_goes_on {i : Instr} {s : State} (hs : s.Inv) (hwf : i.wf s.params = true) : ∃ t, exec i s = .next t := by
  cases h : exec i s with
  | next t => exact ⟨t, rfl⟩
  | fault f => exact absurd (exec_fault h) (not_faultsWith_of_inv hs f)
  | refused r => exact absurd h (exec_ne_refused hwf r)

theorem runCommand_of_decode_error {c : Command} {e : DecodeError} (h : decode c = .error e) (s : State) :
    runCommand c s = .next { s with rsp := some (Response.error .illegalCommand ((opField c.word).setWidth 8)) } := by
  simp [runCommand, h, illegalCommand, raise_eq]

/-- Settles O41: an illegal word is answered with an error, and a command the host may present goes on, to a response of the
form its cases give. -/
theorem everyCommandResponds : Obligations.EveryCommandResponds := by
  intro s c rest hs hin hwf
  rw [step_command hin]
  cases hdec : decode c with
  | error e => exact ⟨_, _, runCommand_of_decode_error hdec _, rfl, error_wf (by decide) _ _⟩
  | ok i =>
    have hs' : State.Inv { s with inputs := rest } := hs
    obtain ⟨t, ht⟩ := exec_goes_on hs' (hwf i hdec)
    obtain ⟨r, hr, hrwf⟩ := exec_delivers_wf hs' ht
    exact ⟨t, r, (runCommand_of_decode hdec _).trans ht, hr, hrwf⟩

end Sys2Proof.Machine
end

section
/-! The color-type table and the integers presented to it (spec 40_color_type_lut.md R80 to R84, 41_sample_sequencer.md R91). -/

namespace Sys2Proof

/-! ### The host's rule for an integer operand (R84, R91) -/

theorem presentImm_eq_none_iff (v : Int) : presentImm v = none ↔ v < 0 ∨ 255 < v := by
  unfold presentImm
  split
  next h => exact iff_of_false (Option.some_ne_none _) (by omega)
  next h => exact iff_of_true rfl (by omega)

/-- Every integer in `0 .. 255` is below `2 ^ 8`, so the operand made of it keeps its value. -/
theorem toNat_of_presentImm {v : Int} {b : Byte} (h : presentImm v = some b) : (b.toNat : Int) = v := by
  unfold presentImm at h
  split at h
  next hv =>
    obtain ⟨hnonneg, hle⟩ := hv
    cases h
    have hlt : v.toNat < 2 ^ 8 := by omega
    rw [BitVec.toNat_ofNat, Nat.mod_eq_of_lt hlt, Int.toNat_of_nonneg hnonneg]
  next => cases h

/-- Settles O7: the rule's two halves, the range it presents and the value it keeps. -/
theorem noOperandIsTruncated : Obligations.NoOperandIsTruncated :=
  ⟨presentImm_eq_none_iff, fun _ _ => toNat_of_presentImm⟩

end Sys2Proof

namespace Sys2Proof.Machine

/-! ### RESOLVE by its table (R80, R82, R132) -/

theorem lut_eq_none {ct : Byte} (h0 : ct ≠ 0) (h2 : ct ≠ 2) (h3 : ct ≠ 3) (h4 : ct ≠ 4) (h6 : ct ≠ 6) :
    lut ct.toNat = none := by
  unfold lut
  split
  next h => exact absurd (BitVec.eq_of_toNat_eq h) h0
  next h => exact absurd (BitVec.eq_of_toNat_eq h) h2
  next h => exact absurd (BitVec.eq_of_toNat_eq h) h3
  next h => exact absurd (BitVec.eq_of_toNat_eq h) h4
  next h => exact absurd (BitVec.eq_of_toNat_eq h) h6
  next => rfl

theorem exec_resolve_of_some {ct : Byte} {n : Nat} (h : lut ct.toNat = some n) (s : State) :
    exec (.resolve ct) s = .next { s with rsp := some (.okData n) } := by
  simp [exec, execResolve, h, respond_eq]

theorem exec_resolve_of_none {ct : Byte} (h : lut ct.toNat = none) (s : State) :
    exec (.resolve ct) s = .next { s with rsp := some (Response.error .invalidColorType ct) } := by
  simp [exec, execResolve, h, raise_eq]

/-- Settles O15: one case per row of the table, and the error for a color type in none of them. -/
theorem resolveAnswersTable : Obligations.ResolveAnswersTable := by
  intro ct s
  split_ifs with h0 h2 h3 h4 h6
  · subst h0; exact exec_resolve_of_some (n := 1) rfl s
  · subst h2; exact exec_resolve_of_some (n := 3) rfl s
  · subst h3; exact exec_resolve_of_some (n := 1) rfl s
  · subst h4; exact exec_resolve_of_some (n := 2) rfl s
  · subst h6; exact exec_resolve_of_some (n := 4) rfl s
  · exact exec_resolve_of_none (lut_eq_none h0 h2 h3 h4 h6) s

end Sys2Proof.Machine
end

section
/-! What LENGTH, START, NEXT and CONFIG do, one equation per outcome, and the statements about one command that these settle
(spec 41_sample_sequencer.md R91 to R101). -/

namespace Sys2Proof.Machine

/-! ### The depth selection and the sample count (R91, R95) -/

theorem depthSel_one_shiftLeft : ∀ sel : BitVec 3, sel.toNat ≤ 4 → depthSel (1 <<< sel.toNat) = some sel := by decide

theorem depthSel_eq_some_iff {v : Nat} {sel : BitVec 3} :
    depthSel v = some sel ↔ sel.toNat ≤ 4 ∧ v = 1 <<< sel.toNat := by
  constructor
  · intro h
    unfold depthSel at h
    split at h <;> cases h <;> decide
  · rintro ⟨hsel, rfl⟩
    exact depthSel_one_shiftLeft sel hsel

/-- Settles O16: the match of `DepthSel` read in both directions. -/
theorem depthSelExactly : Obligations.DepthSelExactly := fun _ _ => depthSel_eq_some_iff

theorem sampleCount_eq_div (len sel : Nat) : sampleCount len sel = len * 8 / 2 ^ sel := by
  rw [sampleCount, Nat.shiftRight_eq_div_pow, Nat.shiftLeft_eq]

/-- Settles O22: the two shifts are `floor(L * 8 / d)`, which is at most eight times a length of `LEN_W` bits. -/
theorem sampleCountValue : Obligations.SampleCountValue := by
  intro p len sel hlen _
  have hfits : sampleCount len sel < 2 ^ p.cntW :=
    calc sampleCount len sel ≤ len * 8 := sampleCount_le ..
      _ < 2 ^ p.lenW * 2 ^ 3 := Nat.mul_lt_mul_of_pos_right hlen (by decide)
      _ = 2 ^ p.cntW := (Nat.pow_add ..).symm
  refine ⟨sampleCount_eq_div len sel, hfits, ?_⟩
  simp only [sampleCount_eq_div]
  omega

/-! ### One equation per outcome of a command -/

section outcomes
variable {s : State} {c : Ctx}

theorem exec_length_ok (hv : s.cfgValid = true) (hd : s.cfgDsel.toNat ≤ 4) :
    exec .length s = .next { s with rsp := some (.okData (sampleCount s.cfgLen s.cfgDsel.toNat)) } :=
  (requireConfigured_ok hv ..).trans (requireDepth_ok hd _)

theorem exec_start_ok (hc : c.toNat < s.numCtx) (hv : s.cfgValid = true) :
    exec (.start c) s = .next { s.writeCur c 0 with rsp := some (.okData 0) } :=
  (requireContext_ok hc _).trans (requireConfigured_ok hv ..)

theorem exec_start_badContext (hc : s.numCtx ≤ c.toNat) :
    exec (.start c) s = .next { s with rsp := some (Response.error .badContext (c.setWidth 8)) } :=
  requireContext_bad hc _

theorem exec_start_notConfigured (hc : c.toNat < s.numCtx) (hv : s.cfgValid = false) :
    exec (.start c) s = .next { s with rsp := some (Response.error .notConfigured 4) } :=
  (requireContext_ok hc _).trans (requireConfigured_bad hv ..)

theorem exec_next_badContext (hc : s.numCtx ≤ c.toNat) :
    exec (.next c) s = .next { s with rsp := some (Response.error .badContext (c.setWidth 8)) } :=
  requireContext_bad hc _

theorem exec_next_notConfigured (hc : c.toNat < s.numCtx) (hv : s.cfgValid = false) :
    exec (.next c) s = .next { s with rsp := some (Response.error .notConfigured 5) } :=
  (requireContext_ok hc _).trans (requireConfigured_bad hv ..)

theorem exec_next_end (hc : c.toNat < s.numCtx) (hv : s.cfgValid = true) (hd : s.cfgDsel.toNat ≤ 4)
    (hk : sampleCount s.cfgLen s.cfgDsel.toNat ≤ s.readCur c) :
    exec (.next c) s = .next { s with rsp := some .endRsp } := by
  rw [exec, execNext, requireContext_ok hc, requireConfigured_ok hv, requireDepth_ok hd, if_pos hk, respond_eq]

theorem exec_next_sample (hc : c.toNat < s.numCtx) (hv : s.cfgValid = true) (hd : s.cfgDsel.toNat ≤ 4)
    (hk : s.readCur c < sampleCount s.cfgLen s.cfgDsel.toNat) {v : Nat}
    (hx : extract s (s.readCur c) s.cfgDsel.toNat = .ok v) :
    exec (.next c) s = .next { s.writeCur c (s.readCur c + 1) with rsp := some (.okData v) } := by
  rw [exec, execNext, requireContext_ok hc, requireConfigured_ok hv, requireDepth_ok hd, if_neg (Nat.not_le_of_lt hk), hx]
  rfl

theorem exec_config_ok {dv : Byte} {sel : BitVec 3} {len : Nat} {bytes : List Byte} (hsel : depthSel dv.toNat = some sel)
    (hlen : len < 2 ^ s.lenW) (hbytes : bytes.length = len) :
    exec (.config dv len bytes) s = .next { (s.bind sel len bytes).clearCur with rsp := some (.okData 0) } := by
  rw [exec, execConfig, requireSideOperands_ok hlen hbytes, configure, hsel]
  rfl

end outcomes

/-! ### The statements -/

/-- Settles O17: the depth selects, the side operands are as owed, and CONFIG binds. -/
theorem configSucceeds : Obligations.ConfigSucceeds := by
  intro s dv sel len bytes hsel hdv hlen hbytes
  exact exec_config_ok (depthSel_eq_some_iff.2 ⟨hsel, hdv⟩) hlen hbytes

/-- Settles O23: LENGTH answers the count, and the count is the quotient. -/
theorem lengthAnswersCount : Obligations.LengthAnswersCount := by
  intro s hv hd
  rw [exec_length_ok hv (hd hv), sampleCount_eq_div]
  rfl

/-- Settles O24: START writes its own cursor, which exists and so reads back 0. -/
theorem startClearsCursor : Obligations.StartClearsCursor :=
  fun s c hv hc => ⟨exec_start_ok hc hv, readCur_writeCur_same s c 0 hc⟩

/-- Settles O26: the outcome of NEXT at and above the count. -/
theorem nextAtEnd : Obligations.NextAtEnd :=
  fun _ _ hv hd hc hk => exec_next_end hc hv (hd hv) hk

/-- Settles O25: under the invariant NEXT goes on, and of its outcomes only the sample is below the count of a configured
block. -/
theorem nextProducesSample : Obligations.NextProducesSample := by
  intro s c hs hv hc hk
  obtain ⟨t, ht⟩ := exec_goes_on (i := .next c) hs rfl
  obtain ⟨hbad, -⟩ | ⟨-, hnone, -⟩ | ⟨-, -, -, hend, -⟩ | ⟨-, -, -, -, v, hx, rfl⟩ := execNext_cases ht
  · exact absurd hc (Nat.not_lt_of_le hbad)
  · cases hv.symm.trans hnone
  · exact absurd hk (Nat.not_lt_of_le hend)
  · exact ⟨v, hx, ht⟩

end Sys2Proof.Machine
end

section
/-! The value of a sample: its range, its lane of a byte, and the source's sequence of samples, which extraction enumerates
(spec 41_sample_sequencer.md R98 to R105, R111). -/

namespace Sys2Proof.Machine

/-! ### The range of a sample (R102) -/

theorem packedField_lt (x : Byte) (d p : Nat) : packedField x d p < 2 ^ d := by
  have hle : packedField x d p ≤ 1 <<< d - 1 := Nat.and_le_right
  have hpos : 0 < 2 ^ d := Nat.two_pow_pos d
  rw [Nat.one_shiftLeft] at hle
  omega

theorem extractField_lt_depth {s : State} {k sel v : Nat} (h : extractField s k sel = .ok v) : v < 2 ^ 2 ^ sel := by
  simp only [extractField, Nat.one_shiftLeft] at h
  split at h
  next => cases h
  next x hx => cases h; exact packedField_lt x _ _

theorem extract_lt_depth {s : State} {k sel v : Nat} (h : extract s k sel = .ok v) : v < 2 ^ 2 ^ sel := by
  by_cases hsel : sel = 4
  · subst hsel
    exact extractPair_lt h
  · rw [extract_of_ne_four hsel] at h
    exact extractField_lt_depth h

/-- Settles O30: the one outcome of NEXT that answers OK carries an extracted sample. -/
theorem sampleRange : Obligations.SampleRange := by
  intro s t c r _ h hr hok
  obtain ⟨-, rfl⟩ | ⟨-, -, rfl⟩ | ⟨-, -, -, -, rfl⟩ | ⟨-, -, -, -, v, hx, rfl⟩ := execNext_cases h
  · cases hr; cases hok
  · cases hr; cases hok
  · cases hr; cases hok
  · cases hr; exact Nat.le_pred_of_lt (extract_lt_depth hx)

/-! ### The lanes of a byte (R111, R44) -/

/-- Lane `j` of a byte with value `x` at depth `1 << sel`, lane 0 the most significant. -/
def byteLane (sel x j : Nat) : Nat := x / 2 ^ (8 - (j + 1) * 2 ^ sel) % 2 ^ 2 ^ sel

theorem samplesPerByte_mul_depth {sel : Nat} (hsel : sel < 4) : 8 / 2 ^ sel * 2 ^ sel = 8 := by
  interval_cases sel <;> rfl

theorem samplesPerByte_pos {sel : Nat} (hsel : sel < 4) : 0 < 8 / 2 ^ sel := by
  interval_cases sel <;> decide

/-- The byte that holds a sample of depth `d`, one of `m = 8 / d` to the byte. -/
theorem mul_div_eight {m d : Nat} (h : m * d = 8) (k : Nat) : k * d / 8 = k / m := by
  have hd : 0 < d := Nat.pos_of_ne_zero (by rintro rfl; omega)
  rw [← h, Nat.mul_div_mul_right _ _ hd]

/-- The bits before a sample of depth `d` in its byte: those of the lanes before it. -/
theorem mul_mod_eight {m d : Nat} (h : m * d = 8) (k : Nat) : k * d % 8 = k % m * d := by
  rw [← h, Nat.mul_mod_mul_right]

theorem packedField_eq_byteLane {sel : Nat} (hsel : sel < 4) (x : Byte) (k : Nat) :
    packedField x (2 ^ sel) (k * 2 ^ sel) = byteLane sel x.toNat (k % (8 / 2 ^ sel)) := by
  have hoffset : k * 2 ^ sel &&& 7 = k % (8 / 2 ^ sel) * 2 ^ sel := by
    rw [← mul_mod_eight (samplesPerByte_mul_depth hsel)]
    exact Nat.and_two_pow_sub_one_eq_mod _ 3
  have hshift : ∀ j d : Nat, 8 - d - j * d = 8 - (j + 1) * d := by
    intro j d
    rw [Nat.succ_mul]
    omega
  rw [packedField, hoffset, hshift, Nat.one_shiftLeft, Nat.and_two_pow_sub_one_eq_mod, Nat.shiftRight_eq_div_pow, byteLane]

theorem extract_eq_byteLane {s : State} {bytes : List Byte} {sel k : Nat} {x : Byte} (hsel : sel < 4)
    (hs : s.Holds sel bytes) (hx : bytes[k / (8 / 2 ^ sel)]? = some x) :
    extract s k sel = .ok (byteLane sel x.toNat (k % (8 / 2 ^ sel))) := by
  obtain ⟨-, -, hlen, hbuf⟩ := hs
  have hidx : (k * 2 ^ sel) >>> 3 = k / (8 / 2 ^ sel) := by
    rw [Nat.shiftRight_eq_div_pow]
    exact mul_div_eight (samplesPerByte_mul_depth hsel) k
  rw [extract_of_ne_four hsel.ne]
  simp only [extractField, Nat.one_shiftLeft, hidx, bufRead_of_presented hbuf hlen hx, packedField_eq_byteLane hsel]

/-- Settles O28: the byte read is the one that holds the sample, and its field is the sample's lane. -/
theorem sampleIsByteLane : Obligations.SampleIsByteLane :=
  fun _ _ _ _ _ hsel hs hx => extract_eq_byteLane hsel hs hx

/-! ### The source's sequence of samples (R98) -/

/-- The table of R98 lists the lanes of a byte in order. -/
theorem unitSamples_eq_byteLanes {sel : Nat} (hsel : sel < 4) (x : Byte) :
    unitSamples sel x.toNat = (List.range (8 / 2 ^ sel)).map (byteLane sel x.toNat) := by
  have hx := x.isLt
  have hand1 : ∀ n, n &&& 1 = n % 2 := fun n => Nat.and_two_pow_sub_one_eq_mod n 1
  have hand3 : ∀ n, n &&& 3 = n % 4 := fun n => Nat.and_two_pow_sub_one_eq_mod n 2
  have hand15 : ∀ n, n &&& 15 = n % 16 := fun n => Nat.and_two_pow_sub_one_eq_mod n 4
  interval_cases sel
  · simp [unitSamples, byteLane, List.range_succ, Nat.shiftRight_eq_div_pow, hand1]
  · simp [unitSamples, byteLane, List.range_succ, Nat.shiftRight_eq_div_pow, hand3]
    omega
  · simp [unitSamples, byteLane, List.range_succ, Nat.shiftRight_eq_div_pow, hand15]
    omega
  · simp [unitSamples, byteLane, List.range_succ]
    omega

theorem length_unitSamples {sel : Nat} (hsel : sel < 4) (x : Byte) : (unitSamples sel x.toNat).length = 8 / 2 ^ sel := by
  simp [unitSamples_eq_byteLanes hsel]

/-- Units of `m` samples each: sample `k` of the sequence is sample `k mod m` of unit `k / m`. -/
theorem getElem?_flatMap_of_length_eq {α β : Type} {f : α → List β} {m : Nat} (hf : ∀ a, (f a).length = m) (hm : 0 < m)
    (l : List α) (k : Nat) : (l.flatMap f)[k]? = l[k / m]?.bind fun a => (f a)[k % m]? := by
  induction l generalizing k with
  | nil => simp
  | cons a rest ih =>
    rw [List.flatMap_cons]
    by_cases hk : k < m
    · rw [List.getElem?_append_left (by rwa [hf]), Nat.div_eq_of_lt hk, Nat.mod_eq_of_lt hk]
      rfl
    · have hle : m ≤ k := Nat.le_of_not_lt hk
      rw [List.getElem?_append_right (by rwa [hf]), hf, ih, Nat.div_eq_sub_div hm hle, Nat.mod_eq_sub_mod hle]
      rfl

theorem unpack_four (bytes : List Byte) : unpack 4 bytes = pairSamples bytes := if_pos rfl

theorem unpack_of_lt_four {sel : Nat} (hsel : sel < 4) (bytes : List Byte) :
    unpack sel bytes = bytes.flatMap fun b => unitSamples sel b.toNat :=
  if_neg hsel.ne

theorem length_pairSamples (bytes : List Byte) : (pairSamples bytes).length = bytes.length / 2 := by
  induction bytes using pairSamples.induct with
  | case1 a b rest ih =>
    simp only [pairSamples, List.length_cons, ih]
    omega
  | case2 a => simp [pairSamples]
  | case3 => rfl

/-- The sequence has as many samples as LENGTH counts (R95). -/
theorem length_unpack {sel : Nat} (hsel : sel ≤ 4) (bytes : List Byte) :
    (unpack sel bytes).length = sampleCount bytes.length sel := by
  obtain hlt | rfl := hsel.lt_or_eq
  · have hsum : (unpack sel bytes).length = bytes.length * (8 / 2 ^ sel) := by
      simp [unpack_of_lt_four hlt, List.length_flatMap, length_unitSamples hlt]
    rw [hsum, sampleCount_eq_div]
    refine (Nat.div_eq_of_eq_mul_left (Nat.two_pow_pos sel) ?_).symm
    rw [Nat.mul_assoc, samplesPerByte_mul_depth hlt]
  · rw [unpack_four, length_pairSamples, sampleCount_eq_div]
    omega

/-- Sample `k` of the two-byte units is the pair of bytes `2k` and `2k + 1`, both in the buffer. -/
theorem getElem?_pairSamples {bytes : List Byte} {k v : Nat} (h : (pairSamples bytes)[k]? = some v) :
    ∃ a b, bytes[2 * k]? = some a ∧ bytes[2 * k + 1]? = some b ∧ v = (a.toNat <<< 8) ||| b.toNat := by
  induction bytes using pairSamples.induct generalizing k with
  | case1 a b rest ih =>
    cases k with
    | zero =>
      cases h
      exact ⟨a, b, rfl, rfl, rfl⟩
    | succ k => exact ih h
  | case2 a => cases h
  | case3 => cases h

/-! ### Extraction enumerates the sequence (R98, R99) -/

theorem extract_of_getElem?_unpack {s : State} {sel : Nat} {bytes : List Byte} {k v : Nat} (hsel : sel ≤ 4)
    (hs : s.Holds sel bytes) (hv : (unpack sel bytes)[k]? = some v) : extract s k sel = .ok v := by
  obtain hlt | rfl := hsel.lt_or_eq
  · have hpos := samplesPerByte_pos hlt
    rw [unpack_of_lt_four hlt, getElem?_flatMap_of_length_eq (length_unitSamples hlt) hpos] at hv
    obtain ⟨x, hx, hlane⟩ := Option.bind_eq_some_iff.1 hv
    rw [unitSamples_eq_byteLanes hlt, List.getElem?_map, List.getElem?_range (Nat.mod_lt k hpos)] at hlane
    cases hlane
    exact extract_eq_byteLane hlt hs hx
  · obtain ⟨-, -, hlen, hbuf⟩ := hs
    rw [unpack_four] at hv
    obtain ⟨a, b, ha, hb, rfl⟩ := getElem?_pairSamples hv
    rw [extract_four, extractPair_ok (bufRead_of_presented hbuf hlen ha) (bufRead_of_presented hbuf hlen hb)]

/-- Settles O32: the two lists have the same length, and extraction gives each sample of the sequence. -/
theorem extractIsSourceSequence : Obligations.ExtractIsSourceSequence := by
  intro s sel bytes hsel hs
  have ⟨_, _, hlen, _⟩ := hs
  apply List.ext_getElem
  · simp [length_unpack hsel, hlen]
  · intro k _ hk
    rw [List.length_map] at hk
    have hx := extract_of_getElem?_unpack hsel hs (List.getElem?_eq_getElem hk)
    simpa using hx

/-! ### NEXT where bytes are bound -/

section holds
variable {s : State} {c : Ctx} {sel : Nat} {bytes : List Byte}

theorem sampleCount_of_holds (hsel : sel ≤ 4) (hs : s.Holds sel bytes) :
    sampleCount s.cfgLen s.cfgDsel.toNat = (unpack sel bytes).length := by
  obtain ⟨-, rfl, hlen, -⟩ := hs
  rw [length_unpack hsel, hlen]

theorem exec_next_sample_of_holds (hsel : sel ≤ 4) (hs : s.Holds sel bytes) (hc : c.toNat < s.numCtx) {v : Nat}
    (hv : (unpack sel bytes)[s.readCur c]? = some v) :
    exec (.next c) s = .next { s.writeCur c (s.readCur c + 1) with rsp := some (.okData v) } := by
  have hx := extract_of_getElem?_unpack hsel hs hv
  have hk : s.readCur c < sampleCount s.cfgLen s.cfgDsel.toNat := by
    rw [sampleCount_of_holds hsel hs]
    exact (List.getElem?_eq_some_iff.1 hv).1
  obtain ⟨hvalid, rfl, -, -⟩ := hs
  exact exec_next_sample hc hvalid hsel hk hx

theorem exec_next_end_of_holds (hsel : sel ≤ 4) (hs : s.Holds sel bytes) (hc : c.toNat < s.numCtx)
    (hk : (unpack sel bytes).length ≤ s.readCur c) : exec (.next c) s = .next { s with rsp := some .endRsp } := by
  rw [← sampleCount_of_holds hsel hs] at hk
  obtain ⟨hvalid, rfl, -, -⟩ := hs
  exact exec_next_end hc hvalid hsel hk

theorem exec_length_of_holds (hsel : sel ≤ 4) (hs : s.Holds sel bytes) :
    exec .length s = .next { s with rsp := some (.okData (unpack sel bytes).length) } := by
  rw [← sampleCount_of_holds hsel hs]
  obtain ⟨hvalid, rfl, -, -⟩ := hs
  exact exec_length_ok hvalid hsel

/-- NEXT on a context that exists answers the sample at its cursor, or END where the sequence has none. -/
theorem exec_next_answers_of_holds (hsel : sel ≤ 4) (hs : s.Holds sel bytes) (hc : c.toNat < s.numCtx) :
    ∃ t r, exec (.next c) s = .next t ∧ t.rsp = some r ∧ (r.status = .ok ∨ r.status = .endOfSequence) := by
  cases hv : (unpack sel bytes)[s.readCur c]? with
  | some v => exact ⟨_, _, exec_next_sample_of_holds hsel hs hc hv, rfl, .inl rfl⟩
  | none => exact ⟨_, _, exec_next_end_of_holds hsel hs hc (List.getElem?_eq_none_iff.1 hv), rfl, .inr rfl⟩

end holds

/-! ### A buffer shows in the answers by its samples alone -/

section rebind
variable {s : State} {sel : Nat} {bytes bytes' : List Byte}

/-- The state with `bytes` bound in place of its own buffer. -/
def State.rebind (s : State) (bytes : List Byte) : State := { s with buf := some (Memory.ofBytes bytes) }

theorem holds_rebind (hs : s.Holds sel bytes) (hlen : bytes'.length = bytes.length) :
    (s.rebind bytes').Holds sel bytes' := by
  obtain ⟨hv, hd, hl, -⟩ := hs
  exact ⟨hv, hd, hl.trans hlen.symm, rfl⟩

theorem exec_next_rebind (hsel : sel ≤ 4) (hs : s.Holds sel bytes) (hlen : bytes'.length = bytes.length)
    (hseq : unpack sel bytes' = unpack sel bytes) {c : Ctx} {t : State} (h : exec (.next c) s = .next t) :
    exec (.next c) (s.rebind bytes') = .next (t.rebind bytes') := by
  have hs' := holds_rebind hs hlen
  by_cases hc : c.toNat < s.numCtx
  · cases hv : (unpack sel bytes)[s.readCur c]? with
    | some v =>
      cases (exec_next_sample_of_holds hsel hs hc hv).symm.trans h
      exact exec_next_sample_of_holds hsel hs' hc (hseq ▸ hv)
    | none =>
      have hend := List.getElem?_eq_none_iff.1 hv
      cases (exec_next_end_of_holds hsel hs hc hend).symm.trans h
      exact exec_next_end_of_holds hsel hs' hc (hseq ▸ hend)
  · have hbad := Nat.le_of_not_lt hc
    cases (exec_next_badContext hbad).symm.trans h
    exact exec_next_badContext hbad

theorem exec_length_rebind (hsel : sel ≤ 4) (hs : s.Holds sel bytes) (hlen : bytes'.length = bytes.length)
    (hseq : unpack sel bytes' = unpack sel bytes) {t : State} (h : exec .length s = .next t) :
    exec .length (s.rebind bytes') = .next (t.rebind bytes') := by
  cases (exec_length_of_holds hsel hs).symm.trans h
  rw [exec_length_of_holds hsel (holds_rebind hs hlen), hseq]
  rfl

end rebind

/-! ### The odd trailing byte (R105) -/

/-- An odd trailing byte is in no two-byte unit. -/
theorem pairSamples_append_odd (bytes : List Byte) (x : Byte) (h : bytes.length % 2 = 0) :
    pairSamples (bytes ++ [x]) = pairSamples bytes := by
  induction bytes using pairSamples.induct with
  | case1 a b rest ih =>
    have heven : rest.length % 2 = 0 := by
      simp only [List.length_cons] at h
      omega
    simp [pairSamples, ih heven]
  | case2 a => cases h
  | case3 => rfl

/-- Settles O31: the sequence of samples is the same whatever the trailing byte is, and the buffer shows in the answers by its
samples alone. -/
theorem oddTrailingByteDropped : Obligations.OddTrailingByteDropped := by
  rintro s t c bytes x y heven hs rfl
  have ⟨_, hdsel, hcfgLen, _⟩ := hs
  have hseq : unpack 4 (bytes ++ [y]) = unpack 4 (bytes ++ [x]) := by
    simp only [unpack_four, pairSamples_append_odd bytes _ heven]
  have hlen : (bytes ++ [y]).length = (bytes ++ [x]).length := by simp
  have hodd : s.cfgLen % 2 = 1 := by
    rw [hcfgLen, List.length_append, List.length_singleton]
    omega
  have hcount : sampleCount s.cfgLen s.cfgDsel.toNat = s.cfgLen / 2 := by
    rw [hdsel, sampleCount_eq_div]
    omega
  have hlength := exec_length_of_holds (le_refl 4) hs
  rw [← sampleCount_of_holds (le_refl 4) hs, hcount] at hlength
  exact ⟨hcount, hodd, fun _ h => exec_next_rebind (le_refl 4) hs hlen hseq h,
    fun _ h => exec_length_rebind (le_refl 4) hs hlen hseq h, hlength,
    fun hc => exec_next_answers_of_holds (le_refl 4) hs hc⟩

end Sys2Proof.Machine
end

section
/-! Runs of several commands: a traversal from its opening command to END, and what a context's answers depend on
(spec 41_sample_sequencer.md R103 to R106). -/

namespace Sys2Proof.Machine

/-! ### A run by its first command -/

theorem runAll_cons {i : Instr} {rest : List Instr} {s t u : State} {r : Response} {log : List (Instr × Response)}
    (h : exec i s = .next t) (hr : t.rsp = some r) (hrest : runAll rest t = some (u, log)) :
    runAll (i :: rest) s = some (u, (i, r) :: log) := by
  simp [runAll, h, hr, hrest]

theorem runAll_cons_eq_some {i : Instr} {rest : List Instr} {s u : State} {log : List (Instr × Response)}
    (h : runAll (i :: rest) s = some (u, log)) :
    ∃ t r log', exec i s = .next t ∧ t.rsp = some r ∧ runAll rest t = some (u, log') ∧ log = (i, r) :: log' := by
  simp only [runAll] at h
  split at h
  next t ht =>
    split at h
    next r u' log' hr hrest => cases h; exact ⟨t, r, log', ht, hr, hrest, rfl⟩
    next => cases h
  next => cases h
  next => cases h

/-! ### The traversal of a bound buffer (R103) -/

section traversal
variable {c : Ctx} {sel : Nat} {bytes : List Byte}

/-- The log of one command answering `rs` in turn. -/
def logOf (i : Instr) (rs : List Response) : List (Instr × Response) := rs.map fun r => (i, r)

@[simp] theorem logOf_cons (i : Instr) (r : Response) (rs : List Response) : logOf i (r :: rs) = (i, r) :: logOf i rs := rfl

@[simp] theorem map_snd_logOf (i : Instr) (rs : List Response) : (logOf i rs).map Prod.snd = rs := by
  simp [logOf, Function.comp_def]

/-- Writing the value a cursor that exists already has changes nothing. -/
theorem writeCur_readCur {s : State} (hc : c.toNat < s.numCtx) : s.writeCur c (s.readCur c) = s := by
  have hc' : c.toNat < s.cur.length := hc
  have hget : s.readCur c = s.cur[c.toNat] := (List.getElem_eq_getD 0).symm
  rw [State.writeCur, hget, List.set_getElem_self]

/-- At the end NEXT answers END however often it is pulled (R101). -/
theorem runAll_next_at_end (hsel : sel ≤ 4) (extra : Nat) {s : State} (hs : s.Holds sel bytes) (hc : c.toNat < s.numCtx)
    (hk : (unpack sel bytes).length ≤ s.readCur c) :
    runAll (List.replicate (extra + 1) (.next c)) s =
      some ({ s with rsp := some .endRsp }, logOf (.next c) (List.replicate (extra + 1) .endRsp)) := by
  induction extra generalizing s with
  | zero => exact runAll_cons (exec_next_end_of_holds hsel hs hc hk) rfl rfl
  | succ extra ih => exact runAll_cons (exec_next_end_of_holds hsel hs hc hk) rfl (ih hs hc hk)

/-- From cursor `k` on, NEXT answers the samples from `k` on in order, then END (R100, R101). -/
theorem runAll_next_of_drop (hsel : sel ≤ 4) (extra : Nat) {samples : List Nat} {s : State} (hs : s.Holds sel bytes)
    (hc : c.toNat < s.numCtx) (hk : s.readCur c ≤ (unpack sel bytes).length)
    (hdrop : (unpack sel bytes).drop (s.readCur c) = samples) :
    runAll (List.replicate (samples.length + (extra + 1)) (.next c)) s =
      some ({ s.writeCur c (unpack sel bytes).length with rsp := some .endRsp },
        logOf (.next c) (samples.map .okData ++ List.replicate (extra + 1) .endRsp)) := by
  induction samples generalizing s with
  | nil =>
    have hend := List.drop_eq_nil_iff.1 hdrop
    rw [← Nat.le_antisymm hk hend, writeCur_readCur hc]
    simpa using runAll_next_at_end hsel extra hs hc hend
  | cons v samples ih =>
    have hv : (unpack sel bytes)[s.readCur c]? = some v := by
      rw [← List.head?_drop, hdrop]
      rfl
    have hrest : (unpack sel bytes).drop (s.readCur c + 1) = samples := by
      rw [← List.tail_drop, hdrop]
      rfl
    have hcur := readCur_writeCur_same s c (s.readCur c + 1) hc
    have hc' : c.toNat < (s.writeCur c (s.readCur c + 1)).numCtx := by simpa using hc
    obtain ⟨hlt, -⟩ := List.getElem?_eq_some_iff.1 hv
    rw [List.length_cons, Nat.succ_add, List.replicate_succ]
    refine (runAll_cons (exec_next_sample_of_holds hsel hs hc hv) rfl
      (ih hs hc' (hcur.trans_le hlt) (hcur.symm ▸ hrest))).trans ?_
    simp [State.writeCur]

/-- A traversal from cursor 0 to its end and beyond. -/
theorem runAll_next_from_zero (hsel : sel ≤ 4) (extra : Nat) {s : State} (hs : s.Holds sel bytes)
    (hc : c.toNat < s.numCtx) (hzero : s.readCur c = 0) :
    runAll (List.replicate (sampleCount bytes.length sel + (extra + 1)) (.next c)) s =
      some ({ s.writeCur c (sampleCount bytes.length sel) with rsp := some .endRsp },
        logOf (.next c) ((unpack sel bytes).map .okData ++ List.replicate (extra + 1) .endRsp)) := by
  rw [← length_unpack hsel]
  exact runAll_next_of_drop hsel extra hs hc (hzero ▸ Nat.zero_le _) (by rw [hzero, List.drop_zero])

end traversal

/-- Settles O33: START leaves the cursor at 0, and the traversal runs from there. -/
theorem fullTraversal : Obligations.FullTraversal := by
  intro s c sel bytes extra hsel hs hc
  have ⟨hv, _, hlen, _⟩ := hs
  refine ⟨?_, exec_length_of_holds hsel hs⟩
  have hc' : c.toNat < (s.writeCur c 0).numCtx := by simpa using hc
  rw [hlen]
  exact ⟨_, _, runAll_cons (exec_start_ok hc hv) rfl
    (runAll_next_from_zero hsel extra hs hc' (readCur_writeCur_same s c 0 hc)), by simp, by simp [State.writeCur, hlen]⟩

/-- Settles O34: CONFIG leaves the new buffer bound and every cursor at 0, and the traversal runs from there. -/
theorem fullTraversalFromConfig : Obligations.FullTraversalFromConfig := by
  rintro s c dv sel _ bytes extra hsel hlen rfl hc
  have hs : (s.bind sel bytes.length bytes).clearCur.Holds sel.toNat bytes := ⟨rfl, rfl, rfl, rfl⟩
  have hc' : c.toNat < (s.bind sel bytes.length bytes).clearCur.numCtx := by simpa using hc
  exact ⟨_, _, runAll_cons (exec_config_ok hsel hlen rfl) rfl
    (runAll_next_from_zero (depthSel_le_four hsel) extra hs hc' (readCur_clearCur _ c)), by simp, hs,
    readCur_writeCur_same _ c _ hc'⟩

/-! ### What a context's answers depend on (R104, R106) -/

/-- Context `c` of `s` and context `d` of `u` cannot be told apart by START and NEXT: one configuration, and one cursor value.
An error names its context, so two different ones must exist. -/
structure SameView (s : State) (c : Ctx) (u : State) (d : Ctx) : Prop where
  valid : s.cfgValid = u.cfgValid
  dsel : s.cfgDsel = u.cfgDsel
  len : s.cfgLen = u.cfgLen
  buf : s.buf = u.buf
  exists_iff : c.toNat < s.numCtx ↔ d.toNat < u.numCtx
  cursor : s.readCur c = u.readCur d
  same_or_exists : c = d ∨ c.toNat < s.numCtx

namespace SameView

variable {s u t : State} {c d : Ctx}

theorem refl (s : State) (c : Ctx) : SameView s c s c := ⟨rfl, rfl, rfl, rfl, .rfl, rfl, .inl rfl⟩

theorem eq_of_not_exists (h : SameView s c u d) (hc : s.numCtx ≤ c.toNat) : c = d ∧ u.numCtx ≤ d.toNat :=
  ⟨h.same_or_exists.resolve_right (Nat.not_lt_of_le hc),
    Nat.le_of_not_lt fun hd => Nat.not_lt_of_le hc (h.exists_iff.2 hd)⟩

theorem writeCur (h : SameView s c u d) (hc : c.toNat < s.numCtx) (v : Nat) :
    SameView (s.writeCur c v) c (u.writeCur d v) d where
  valid := h.valid
  dsel := h.dsel
  len := h.len
  buf := h.buf
  exists_iff := by simpa using h.exists_iff
  cursor := by rw [readCur_writeCur_same s c v hc, readCur_writeCur_same u d v (h.exists_iff.1 hc)]
  same_or_exists := .inr (by simpa using hc)

theorem respond (h : SameView s c u d) (r r' : Option Response) :
    SameView { s with rsp := r } c { u with rsp := r' } d :=
  ⟨h.valid, h.dsel, h.len, h.buf, h.exists_iff, h.cursor, h.same_or_exists⟩

/-- A change of the left state in other cursors and in the response leaves the view as it was. -/
theorem of_sameButCursor {e : Ctx} (h : SameView s c u d) (ht : s.SameButCursor t e) (hne : c ≠ e) : SameView t c u d := by
  obtain ⟨heq, hnum, hcur, -⟩ := ht
  exact ⟨(congrArg State.cfgValid heq).trans h.valid, (congrArg State.cfgDsel heq).trans h.dsel,
    (congrArg State.cfgLen heq).trans h.len, (congrArg State.buf heq).trans h.buf, hnum ▸ h.exists_iff,
    (hcur c hne).trans h.cursor, hnum ▸ h.same_or_exists⟩

theorem of_sameButResponse (h : SameView s c u d) (ht : s.SameButResponse t) : SameView t c u d := by
  obtain ⟨heq, -⟩ := ht
  rw [heq]
  exact h.respond _ u.rsp

/-- START answers the same in two contexts that cannot be told apart, and they still cannot. -/
theorem start (h : SameView s c u d) (hs : exec (.start c) s = .next t) :
    ∃ w, exec (.start d) u = .next w ∧ w.rsp = t.rsp ∧ SameView t c w d := by
  obtain ⟨hbad, rfl⟩ | ⟨hc, hv, rfl⟩ | ⟨hc, hv, rfl⟩ := execStart_cases hs
  · obtain ⟨rfl, hbad'⟩ := h.eq_of_not_exists hbad
    exact ⟨_, exec_start_badContext hbad', rfl, h.respond ..⟩
  · exact ⟨_, exec_start_notConfigured (h.exists_iff.1 hc) (h.valid ▸ hv), rfl, h.respond ..⟩
  · exact ⟨_, exec_start_ok (h.exists_iff.1 hc) (h.valid ▸ hv), rfl, (h.writeCur hc 0).respond ..⟩

/-- NEXT answers the same in two contexts that cannot be told apart, and they still cannot. -/
theorem next (h : SameView s c u d) (hs : exec (.next c) s = .next t) :
    ∃ w, exec (.next d) u = .next w ∧ w.rsp = t.rsp ∧ SameView t c w d := by
  have hcursor := h.cursor
  obtain ⟨hbad, rfl⟩ | ⟨hc, hv, rfl⟩ | ⟨hc, hv, hd, hk, rfl⟩ | ⟨hc, hv, hd, hk, v, hx, rfl⟩ := execNext_cases hs
  · obtain ⟨rfl, hbad'⟩ := h.eq_of_not_exists hbad
    exact ⟨_, exec_next_badContext hbad', rfl, h.respond ..⟩
  · exact ⟨_, exec_next_notConfigured (h.exists_iff.1 hc) (h.valid ▸ hv), rfl, h.respond ..⟩
  · rw [h.len, h.dsel, hcursor] at hk
    exact ⟨_, exec_next_end (h.exists_iff.1 hc) (h.valid ▸ hv) (h.dsel ▸ hd) hk, rfl, h.respond ..⟩
  · rw [h.len, h.dsel, hcursor] at hk
    rw [← extract_congr s u h.buf.symm h.len.symm, h.dsel, hcursor] at hx
    refine ⟨_, exec_next_sample (h.exists_iff.1 hc) (h.valid ▸ hv) (h.dsel ▸ hd) hk hx, rfl, ?_⟩
    rw [← hcursor]
    exact (h.writeCur hc _).respond ..

end SameView

theorem runAll_next_of_sameView {c d : Ctx} {n : Nat} {s u s' u' : State} {log log' : List (Instr × Response)}
    (h : SameView s c u d) (hs : runAll (List.replicate n (.next c)) s = some (s', log))
    (hu : runAll (List.replicate n (.next d)) u = some (u', log')) : log.map Prod.snd = log'.map Prod.snd := by
  induction n generalizing s u log log' with
  | zero => cases hs; cases hu; rfl
  | succ n ih =>
    obtain ⟨t, r, rest, ht, hr, hrun, rfl⟩ := runAll_cons_eq_some hs
    obtain ⟨w, q, rest', hw, hq, hrun', rfl⟩ := runAll_cons_eq_some hu
    obtain ⟨w', hw', hrsp, hview⟩ := h.next ht
    cases hw.symm.trans hw'
    cases hq.symm.trans (hrsp.trans hr)
    exact congrArg (r :: ·) (ih hview hrun hrun')

/-- Settles O35: after START both cursors are 0 under one configuration, so the contexts cannot be told apart. -/
theorem traversalsIdentical : Obligations.TraversalsIdentical := by
  intro s u s' u' c d n log log' hv hv' hdsel hlen hbuf hc hd hs hu
  obtain ⟨t, r, rest, ht, hr, hrun, rfl⟩ := runAll_cons_eq_some hs
  obtain ⟨w, q, rest', hw, hq, hrun', rfl⟩ := runAll_cons_eq_some hu
  cases (exec_start_ok hc hv).symm.trans ht
  cases (exec_start_ok hd hv').symm.trans hw
  cases hr
  cases hq
  have hc' : c.toNat < (s.writeCur c 0).numCtx := by simpa using hc
  have hd' : d.toNat < (u.writeCur d 0).numCtx := by simpa using hd
  have hview : SameView (s.writeCur c 0) c (u.writeCur d 0) d :=
    ⟨hv.trans hv'.symm, hdsel, hlen, hbuf, iff_of_true hc' hd',
      (readCur_writeCur_same s c 0 hc).trans (readCur_writeCur_same u d 0 hd).symm, .inr hc'⟩
  exact congrArg (Response.okData 0 :: ·) (runAll_next_of_sameView (hview.respond ..) hrun hrun')

/-! ### Interleaved contexts (R106) -/

/-- A command that goes on keeps the invariant: it is what a step makes of it when the host issues it. -/
theorem exec_keeps_inv {i : Instr} {s t : State} (hs : s.Inv) (h : exec i s = .next t) : t.Inv :=
  invariantKept { s with inputs := .command (encode i) :: s.inputs } t hs ((issuedCommandRuns _ i _ rfl).trans h)

theorem wf_of_not_isConfig {i : Instr} (h : isConfig i = false) (p : Params) : i.wf p = true := by
  cases i with
  | config dv len bytes => cases h
  | resolve | length | start | next => rfl

/-- A command on another context, or on none, shows in nothing that context `c` can see. -/
theorem SameView.of_not_onContext {i : Instr} {s t u : State} {c d : Ctx} (h : SameView s c u d)
    (hconfig : isConfig i = false) (hother : onContext c i = false) (ht : exec i s = .next t) : SameView t c u d := by
  cases i with
  | config dv len bytes => cases hconfig
  | resolve ct => exact h.of_sameButResponse (frameOfResolveAndLength s t ct (.inl ht))
  | length => exact h.of_sameButResponse (frameOfResolveAndLength s t 0 (.inr ht))
  | start e =>
    have hne : e ≠ c := beq_eq_false_iff_ne.1 hother
    exact h.of_sameButCursor (frameOfStartAndNext s t e (.inl ht)) hne.symm
  | next e =>
    have hne : e ≠ c := beq_eq_false_iff_ne.1 hother
    exact h.of_sameButCursor (frameOfStartAndNext s t e (.inr ht)) hne.symm

/-- A command on context `c` does and answers the same where `c` cannot be told apart. -/
theorem SameView.of_onContext {i : Instr} {s t u : State} {c : Ctx} (h : SameView s c u c)
    (hon : onContext c i = true) (ht : exec i s = .next t) :
    ∃ w, exec i u = .next w ∧ w.rsp = t.rsp ∧ SameView t c w c := by
  cases i with
  | resolve | config | length => cases hon
  | start e => obtain rfl := beq_iff_eq.1 hon; exact h.start ht
  | next e => obtain rfl := beq_iff_eq.1 hon; exact h.next ht

/-- The commands on `c` of a run, run alone from a state where `c` looks the same: the same answers, and `c` looks the same
after. -/
theorem runAll_filter_onContext {s u : State} {c : Ctx} {prog : List Instr} (hs : s.Inv) (hview : SameView s c u c)
    (hprog : ∀ i ∈ prog, isConfig i = false) :
    ∃ t log w, runAll prog s = some (t, log) ∧
      runAll (prog.filter (onContext c)) u = some (w, log.filter (fun e => onContext c e.1)) ∧ SameView t c w c := by
  induction prog generalizing s u with
  | nil => exact ⟨s, [], u, rfl, rfl, hview⟩
  | cons i rest ih =>
    obtain ⟨hi, hrest⟩ := List.forall_mem_cons.1 hprog
    obtain ⟨t, ht⟩ := exec_goes_on hs (wf_of_not_isConfig hi _)
    obtain ⟨r, hr, -⟩ := exec_delivers_wf hs ht
    have ht' : t.Inv := exec_keeps_inv hs ht
    cases hon : onContext c i with
    | true =>
      obtain ⟨w, hw, hrsp, hview'⟩ := hview.of_onContext hon ht
      obtain ⟨t', log, w', hrun, halone, hend⟩ := ih ht' hview' hrest
      refine ⟨t', _, w', runAll_cons ht hr hrun, ?_, hend⟩
      rw [List.filter_cons_of_pos hon, List.filter_cons_of_pos (by exact hon)]
      exact runAll_cons hw (hrsp.trans hr) halone
    | false =>
      obtain ⟨t', log, w', hrun, halone, hend⟩ := ih ht' (hview.of_not_onContext hi hon ht) hrest
      refine ⟨t', _, w', runAll_cons ht hr hrun, ?_, hend⟩
      rwa [List.filter_cons_of_neg (by simp [hon]), List.filter_cons_of_neg (by simp [hon])]

/-- Settles O36: the run alone starts from the same state, where the context looks the same. -/
theorem contextsIndependent : Obligations.ContextsIndependent := by
  intro s c prog hs hprog
  obtain ⟨t, log, w, hrun, halone, hview⟩ := runAll_filter_onContext hs (SameView.refl s c) hprog
  exact ⟨t, log, w, hrun, halone, hview.cursor.symm⟩

end Sys2Proof.Machine
end

section
/-! Which errors a command raises, in which states and with which value, said once; that nothing reads the response port; and the
statements about exceptions that follow (spec 60_exceptions.md R131 to R150). -/

namespace Sys2Proof.Machine

/-! ### The outcomes of a command that are errors -/

theorem exec_length_notConfigured {s : State} (hv : s.cfgValid = false) :
    exec .length s = .next { s with rsp := some (Response.error .notConfigured 3) } :=
  requireConfigured_bad hv ..

theorem exec_config_invalidDepth {s : State} {dv : Byte} {len : Nat} {bytes : List Byte} (hdepth : depthSel dv.toNat = none)
    (hlen : len < 2 ^ s.lenW) (hbytes : bytes.length = len) :
    exec (.config dv len bytes) s = .next { s with rsp := some (Response.error .invalidBitDepth dv) } := by
  rw [exec, execConfig, requireSideOperands_ok hlen hbytes, configure, hdepth]
  rfl

theorem depthSel_eq_none {dv : Byte} (h1 : dv ≠ 1) (h2 : dv ≠ 2) (h4 : dv ≠ 4) (h8 : dv ≠ 8) (h16 : dv ≠ 16) :
    depthSel dv.toNat = none := by
  unfold depthSel
  split
  next h => exact absurd (BitVec.eq_of_toNat_eq h) h1
  next h => exact absurd (BitVec.eq_of_toNat_eq h) h2
  next h => exact absurd (BitVec.eq_of_toNat_eq h) h4
  next h => exact absurd (BitVec.eq_of_toNat_eq h) h8
  next h => exact absurd (BitVec.eq_of_toNat_eq h) h16
  next => rfl

/-! ### Which command raises which error -/

/-- The errors a command can raise from `s`, with the value each carries, and what of `s` makes it so (R132, R133, R135, R136).
ILLEGAL_COMMAND is raised by a word that is no command at all (R134). -/
inductive Raises (s : State) : Instr → ErrKind → Byte → Prop
  | resolve {ct : Byte} (hct : lut ct.toNat = none) : Raises s (.resolve ct) .invalidColorType ct
  | config {dv : Byte} {len : Nat} {bytes : List Byte} (hwf : Instr.wf s.params (.config dv len bytes) = true)
      (hdv : depthSel dv.toNat = none) : Raises s (.config dv len bytes) .invalidBitDepth dv
  | length (hv : s.cfgValid = false) : Raises s .length .notConfigured 3
  | startBadContext {c : Ctx} (hc : s.numCtx ≤ c.toNat) : Raises s (.start c) .badContext (c.setWidth 8)
  | startNotConfigured {c : Ctx} (hc : c.toNat < s.numCtx) (hv : s.cfgValid = false) :
      Raises s (.start c) .notConfigured 4
  | nextBadContext {c : Ctx} (hc : s.numCtx ≤ c.toNat) : Raises s (.next c) .badContext (c.setWidth 8)
  | nextNotConfigured {c : Ctx} (hc : c.toNat < s.numCtx) (hv : s.cfgValid = false) :
      Raises s (.next c) .notConfigured 5

theorem numCtx_le_of_raises_badContext {s : State} {i : Instr} {v : Byte} (h : Raises s i .badContext v) :
    ∃ c : Ctx, s.numCtx ≤ c.toNat := by
  cases h with
  | startBadContext hc | nextBadContext hc => exact ⟨_, hc⟩

/-- A response that reports no error (R72, R73). -/
def Response.NoError (r : Response) : Prop := r.status ≠ .err ∧ r.errCode = .noError

theorem okData_noError (n : Nat) : (Response.okData n).NoError := ⟨nofun, rfl⟩

theorem endRsp_noError : Response.endRsp.NoError := ⟨nofun, rfl⟩

/-- A command that goes on has raised one of its errors and written nothing else, or reports no error (R131). -/
theorem exec_raises_or_noError {i : Instr} {s t : State} (h : exec i s = .next t) :
    (∃ k v, Raises s i k v ∧ t = { s with rsp := some (Response.error k v) }) ∨ ∃ r, t.rsp = some r ∧ r.NoError := by
  cases i with
  | resolve ct =>
    obtain ⟨r, e, ⟨n, -, rfl⟩ | ⟨hct, rfl⟩⟩ := execResolve_next ct s
    · cases e.symm.trans h
      exact .inr ⟨_, rfl, okData_noError n⟩
    · cases e.symm.trans h
      exact .inl ⟨_, _, .resolve hct, rfl⟩
  | config dv len bytes =>
    obtain ⟨hwf, ⟨hdv, rfl⟩ | ⟨sel, -, rfl⟩⟩ := execConfig_cases h
    · exact .inl ⟨_, _, .config hwf hdv, rfl⟩
    · exact .inr ⟨_, rfl, okData_noError 0⟩
  | length =>
    obtain ⟨hv, rfl⟩ | ⟨-, -, rfl⟩ := execLength_cases h
    · exact .inl ⟨_, _, .length hv, rfl⟩
    · exact .inr ⟨_, rfl, okData_noError _⟩
  | start c =>
    obtain ⟨hc, rfl⟩ | ⟨hc, hv, rfl⟩ | ⟨-, -, rfl⟩ := execStart_cases h
    · exact .inl ⟨_, _, .startBadContext hc, rfl⟩
    · exact .inl ⟨_, _, .startNotConfigured hc hv, rfl⟩
    · exact .inr ⟨_, rfl, okData_noError 0⟩
  | next c =>
    obtain ⟨hc, rfl⟩ | ⟨hc, hv, rfl⟩ | ⟨-, -, -, -, rfl⟩ | ⟨-, -, -, -, v, -, rfl⟩ := execNext_cases h
    · exact .inl ⟨_, _, .nextBadContext hc, rfl⟩
    · exact .inl ⟨_, _, .nextNotConfigured hc hv, rfl⟩
    · exact .inr ⟨_, rfl, endRsp_noError⟩
    · exact .inr ⟨_, rfl, okData_noError v⟩

/-- The error code of a response tells which error the command raised. -/
theorem raises_of_errCode {i : Instr} {s t : State} {r : Response} (h : exec i s = .next t) (hr : t.rsp = some r)
    (hcode : r.errCode ≠ .noError) : ∃ v, Raises s i r.errCode v := by
  obtain ⟨k, v, hraises, rfl⟩ | ⟨r', hr', -, hno⟩ := exec_raises_or_noError h
  · cases hr
    exact ⟨v, hraises⟩
  · cases hr.symm.trans hr'
    exact absurd hno hcode

/-- A command or an illegal word that answers with an error has written the response port alone (R131, R134). -/
theorem runCommand_error {c : Command} {s t : State} {r : Response} (h : runCommand c s = .next t) (hr : t.rsp = some r)
    (herr : r.status = .err) : ∃ k v, r = Response.error k v ∧ t = { s with rsp := some r } := by
  cases hdec : decode c with
  | error e =>
    cases (runCommand_of_decode_error hdec s).symm.trans h
    cases hr
    exact ⟨_, _, rfl, rfl⟩
  | ok i =>
    rw [runCommand_of_decode hdec] at h
    obtain ⟨k, v, -, rfl⟩ | ⟨r', hr', hno, -⟩ := exec_raises_or_noError h
    · cases hr
      exact ⟨k, v, rfl, rfl⟩
    · cases hr.symm.trans hr'
      exact absurd herr hno

/-! ### Nothing reads the response port (log 3) -/

/-- Every meaning writes the response port and reads it nowhere, so both sides unfold to the same outcome. -/
theorem exec_rsp_irrelevant (i : Instr) (s : State) (o : Option Response) : exec i { s with rsp := o } = exec i s := by
  cases i with
  | resolve | config | length | start | next => rfl

theorem runCommand_rsp_irrelevant (c : Command) (s : State) (o : Option Response) :
    runCommand c { s with rsp := o } = runCommand c s := by
  cases hdec : decode c with
  | error e => rw [runCommand_of_decode_error hdec, runCommand_of_decode_error hdec]
  | ok i => rw [runCommand_of_decode hdec, runCommand_of_decode hdec, exec_rsp_irrelevant]

/-! ### The statements -/

/-- Settles O10: the words named are exactly those the decoder rejects, and a rejected word raises ILLEGAL_COMMAND. -/
theorem illegalCommandRaised : Obligations.IllegalCommandRaised := by
  intro s c h
  obtain ⟨e, hdec⟩ := (illegalWordsExactly c).2 h
  exact runCommand_of_decode_error hdec s

/-- Settles O37: only a context at or above `NUM_CTX` raises BAD_CONTEXT, and none of four bits reaches 16; the check of the
context comes first. -/
theorem badContextFirst : Obligations.BadContextFirst := by
  refine ⟨fun s t i r hnum h hr hcode => ?_, fun s c hc => ⟨exec_start_badContext hc, exec_next_badContext hc⟩⟩
  obtain ⟨v, hraises⟩ := raises_of_errCode h hr (by simp [hcode])
  rw [hcode] at hraises
  obtain ⟨c, hc⟩ := numCtx_le_of_raises_badContext hraises
  have hlt : c.toNat < 2 ^ 4 := c.isLt
  omega

/-- Settles O38: of the errors a command can raise, NOT_CONFIGURED is LENGTH's, START's and NEXT's, while `CFG_VALID = 0`. -/
theorem notConfiguredRaised : Obligations.NotConfiguredRaised := by
  refine ⟨fun s t i r h hr hcode => ?_, fun s hv => ⟨exec_length_notConfigured hv, fun c hc =>
    ⟨exec_start_notConfigured hc hv, exec_next_notConfigured hc hv⟩⟩⟩
  obtain ⟨v, hraises⟩ := raises_of_errCode h hr (by simp [hcode])
  rw [hcode] at hraises
  cases hraises with
  | length hv | startNotConfigured hc hv | nextNotConfigured hc hv => exact ⟨hv, rfl, nofun⟩

/-- Settles O39: an error writes the response port alone, and no command reads that. -/
theorem errorsWriteNothing : Obligations.ErrorsWriteNothing := by
  intro s t c r h hr herr
  obtain ⟨k, v, rfl, rfl⟩ := runCommand_error h hr herr
  exact ⟨rfl, rfl, fun later => runCommand_rsp_irrelevant later s _⟩

/-- Settles O40: below the count NEXT answers its sample, at the count END. -/
theorem noErrorMidTraversal : Obligations.NoErrorMidTraversal := by
  intro s c hs hv hc
  obtain hk | hk := Nat.lt_or_ge (s.readCur c) (sampleCount s.cfgLen s.cfgDsel.toNat)
  · obtain ⟨v, -, hnext⟩ := nextProducesSample s c hs hv hc hk
    exact ⟨_, _, hnext, rfl, .inl rfl⟩
  · obtain ⟨-, -, hdepth, -⟩ := hs
    exact ⟨_, _, nextAtEnd s c hv hdepth hc hk, rfl, .inr rfl⟩

/-- Settles O13: with nothing to take, the step is idle. -/
theorem idleLosesNothing : Obligations.IdleLosesNothing := fun _ h => step_of_no_input h

/-- Settles O19: `DepthSel` has no answer for the depth, and the side operands are as owed. -/
theorem configInvalidDepth : Obligations.ConfigInvalidDepth := by
  intro s dv len bytes h1 h2 h4 h8 h16 hlen hbytes
  exact exec_config_invalidDepth (depthSel_eq_none h1 h2 h4 h8 h16) hlen hbytes

end Sys2Proof.Machine
end

section
/-! Reset, said once as a function of the parameters and of what the host does next, and the statements about reset and hazards
that follow (spec 70_reset_and_hazards.md R160 to R167). -/

namespace Sys2Proof.Machine

/-! ### What the host does next (R165) -/

/-- Settles O11: by the cases of a step; each takes the head of the list, and no command's meaning writes the list. -/
theorem stepTakesOneInput : Obligations.StepTakesOneInput := by
  intro s t h
  obtain ⟨hin, rfl⟩ | ⟨c, rest, i, hin, -, hexec⟩ | ⟨c, rest, e, hin, -, rfl⟩ | ⟨o, rest, hin, rfl⟩ | ⟨x, rest, hin, -, rfl⟩ :=
    step_cases h
  · simp [hin]
  · obtain ⟨-, hinputs⟩ := exec_keeps_params_inputs hexec
    rw [hinputs, hin, List.tail_cons]
  · rw [hin, List.tail_cons]
  · rw [hin, List.tail_cons]
  · rw [hin, List.tail_cons]

/-! ### Reset (R160, R161) -/

/-- Reset keeps the parameters and what the host does next, and nothing else (log 1, log 2). -/
theorem resetBlock_eq_resetWith (o : Option Command) (s : State) :
    resetBlock o s = .next { State.resetWith s.params with inputs := s.inputs } := rfl

/-- A command presented, legal or not, that goes on has written neither the parameters nor the list of what the host does. -/
theorem runCommand_keeps_params_inputs {c : Command} {s t : State} (h : runCommand c s = .next t) :
    t.params = s.params ∧ t.inputs = s.inputs := by
  cases hdec : decode c with
  | error e =>
    cases (runCommand_of_decode_error hdec s).symm.trans h
    exact ⟨rfl, rfl⟩
  | ok i =>
    rw [runCommand_of_decode hdec] at h
    exact exec_keeps_params_inputs h

/-- Settles O43: the step takes the reset off the list, and all that reset keeps is the parameters and the rest of the list. -/
theorem resetValues : Obligations.ResetValues := by
  intro s o rest hin
  exact ⟨_, (step_reset hin).trans (resetBlock_eq_resetWith o _), rfl, rfl, rfl, rfl, rfl, resetWith_readCur s.params, rfl⟩

/-- Settles O44: what reset keeps, no command has written; and it does not read the command outstanding. -/
theorem resetHidesAbandonedCommand : Obligations.ResetHidesAbandonedCommand := by
  intro s t c h
  obtain ⟨hparams, hinputs⟩ := runCommand_keeps_params_inputs h
  have hsame : resetBlock (some c) t = resetBlock (some c) s := by
    rw [resetBlock_eq_resetWith, resetBlock_eq_resetWith, hparams, hinputs]
  exact ⟨hsame, rfl⟩

/-! ### The first command after reset and after CONFIG (R162, R167) -/

@[simp] theorem resetWith_numCtx (p : Params) : (State.resetWith p).numCtx = p.numCtx :=
  congrArg Params.numCtx (resetWith_params p)

/-- Settles O45: reset leaves `CFG_VALID = 0` and every context that the parameters give. -/
theorem afterResetNotConfigured : Obligations.AfterResetNotConfigured := by
  intro p c _ hc
  have hc' : c.toNat < (State.resetWith p).numCtx := by rwa [resetWith_numCtx]
  exact ⟨exec_length_notConfigured rfl, exec_start_notConfigured hc' rfl, exec_next_notConfigured hc' rfl⟩

/-- A CONFIG at a valid depth that goes on leaves its bytes bound and every cursor at 0 (R92). -/
theorem holds_of_exec_config {s t : State} {dv : Byte} {sel : BitVec 3} {len : Nat} {bytes : List Byte}
    (hsel : depthSel dv.toNat = some sel) (h : exec (.config dv len bytes) s = .next t) :
    t.Holds sel.toNat bytes ∧ t.numCtx = s.numCtx ∧ ∀ c, t.readCur c = 0 := by
  obtain ⟨hwf, ⟨hnone, -⟩ | ⟨sel', hsel', rfl⟩⟩ := execConfig_cases h
  · cases hsel.symm.trans hnone
  · cases hsel.symm.trans hsel'
    obtain ⟨-, hlen⟩ := (wf_config_iff ..).1 hwf
    exact ⟨⟨rfl, rfl, hlen.symm, rfl⟩, clearCur_numCtx _, readCur_clearCur _⟩

/-- Settles O21: CONFIG leaves the new bytes bound and every cursor at 0, and NEXT answers the sample at its cursor. -/
theorem nextAfterConfigIsSampleZero : Obligations.NextAfterConfigIsSampleZero := by
  intro s t dv sel len bytes c v more hsel h hc hunpack
  obtain ⟨hs, hnum, hcur⟩ := holds_of_exec_config hsel h
  have hv : (unpack sel.toNat bytes)[t.readCur c]? = some v := by
    rw [hcur, hunpack]
    rfl
  rw [exec_next_sample_of_holds (depthSel_le_four hsel) hs (hnum ▸ hc) hv, hcur]
  rfl

end Sys2Proof.Machine
end
